-- ==== Sys2Proof/Word.lean ====
section
/-! DEFINITION. The plain values of the K2 CMAC core (00_scope.md R6): bytes, byte strings, 128-bit blocks
and the 32-bit command word. -/

namespace Sys2Proof

/-- An unsigned integer 0..255 (R6). -/
abbrev Byte := BitVec 8

/-- `Bytes(*)`: a sequence of any finite length, indexed from 0 (R6). -/
abbrev Bytes := List Byte

/-- A block, held as the 128-bit integer `val(B)` it stands for (R7). Its sequence of sixteen bytes is
`Block.toBytes`, and `Block.ofBytes` is the way back. -/
abbrev Block := BitVec 128

/-- The 32-bit command word `CMD` (R50). -/
abbrev CommandWord := BitVec 32

/-- `ZERO(k)`: k zero bytes (R6). -/
def zeroBytes (k : Nat) : Bytes := List.replicate k 0

end Sys2Proof
end

