-- ==== Sys2Proof/Config.lean ====
section
/-! DEFINITION. The implementation parameters of 00_scope.md R5: the numbers this hardware fixes, the
configuration function ENCRYPT, and the draw PORT_FAIL.

`SUBKEY_TIMING = Lazy` is the shape of the FINALIZE body (it derives, NEW does not), `CONTEXTS = 1` the shape
of State (one context), and there is no payload length limit, since a payload is a list. -/

namespace Sys2Proof

/-- `BLOCK_BYTES` (R5). -/
def Config.blockBytes : Nat := 16

/-- `R_CONST` (R5): byte 15 is 0x87 and bytes 0 to 14 are zero. -/
def Config.rConst : Block := 0x87#128

/-- `KEY_LENGTHS` (R5). -/
def Config.keyLengths : List Nat := [16, 32]

/-- `TAG_MIN` (R5). -/
def Config.tagMin : Nat := 1

/-- `TAG_MAX` (R5). -/
def Config.tagMax : Nat := 16

/-- A block cipher as the core sees it: key bytes and a block give a block (R5, R58). -/
abbrev Cipher := Bytes → Block → Block

/-- `ENCRYPT` (R5, R58): nothing is assumed about it but that it depends on its two arguments alone.
A free value: no body (log 1). -/
opaque Config.encrypt : Cipher

/-- What the cipher port does with one transaction: it answers `Ok(ENCRYPT(k, b))`, it answers `Fail`
(the draw PORT_FAIL, R5, R58), or it never answers (R137). -/
inductive PortFate where
  | answers
  | fails
  | silent
deriving DecidableEq, Repr, Inhabited

/-- The draw for transaction number `n` where nothing in the state lays it down (R5 `PORT_FAIL`, R137).
A free value: no body (log 2). -/
opaque Config.portFate : Nat → PortFate

end Sys2Proof
end

