-- ==== Sys2Proof/Syntax.lean ====
section
/-! DEFINITION. The commands of the core as syntax (30_encoding.md R50, R52): the transaction the host
presents, and the three instructions of spec/opcode_table.json. -/

namespace Sys2Proof

/-- A command transaction `(CMD, P)` (R50). -/
structure Command where
  word    : CommandWord
  payload : Bytes
deriving DecidableEq, Repr

/-- The instruction set: one constructor per row of the opcode table (R52). -/
inductive Instr where
  /-- `NEW(t, P)` (R101): tag size `t = zext(CMD[15:8])`, a natural number (R53), and the key bytes `P`. -/
  | new (t : Nat) (P : Bytes)
  /-- `UPDATE(P)` (R102): the message bytes `P`, any number of them. -/
  | update (P : Bytes)
  /-- `FINALIZE` (R103): no operand. -/
  | finalize
deriving DecidableEq, Repr

end Sys2Proof
end

