-- ==== Sys2Proof/WellFormed.lean ====
section
/-! DEFINITION. Which instructions the encoding can spell (30_encoding.md R53, R54). -/

namespace Sys2Proof

/-- NEW's tag size is an 8-bit field, so 0..255 can be encoded, the values the command itself rejects among
them (R53). A key and a message have any length (R52), and FINALIZE has no operand. -/
def Instr.wf : Instr → Bool
  | .new t _ => decide (t < 256)
  | .update _ => true
  | .finalize => true

end Sys2Proof
end

