-- ==== Sys2Proof/Decode.lean ====
section
/-! DEFINITION. The decoder of 30_encoding.md R59, total on every pair `(CMD, P)`, with the reasons of R55 for
an illegal command, and the encoder from the same fields (R51, R52). -/

namespace Sys2Proof

/-- `CMD[7:0]` (R51). -/
def opcField (w : CommandWord) : BitVec 8 := w.extractLsb' 0 8

/-- `CMD[15:8]` (R51). -/
def argField (w : CommandWord) : BitVec 8 := w.extractLsb' 8 8

/-- `CMD[31:16]` (R51). -/
def rsvdField (w : CommandWord) : BitVec 16 := w.extractLsb' 16 16

/-- Why a command is illegal: clauses (a) to (d) of R55, in the order R59 tests them. -/
inductive Illegal where
  /-- R55 (a): `RSVD ≠ 0`. -/
  | reservedNotZero
  /-- R55 (b): `OPC` is not 0x01, 0x02 or 0x03. -/
  | reservedOpcode
  /-- R55 (c): `ARG ≠ 0` on UPDATE or FINALIZE. -/
  | argNotZero
  /-- R55 (d): a payload on FINALIZE. -/
  | payloadNotEmpty
deriving DecidableEq, Repr

/-- What a command decodes to: an instruction, or ILLEGAL with its reason (R59). -/
inductive Decoded where
  | instr (i : Instr)
  | illegal (why : Illegal)
deriving DecidableEq, Repr

/-- `decode(CMD, P)` (R59). It consults no state. -/
def decode (c : Command) : Decoded :=
  if rsvdField c.word ≠ 0#16 then .illegal .reservedNotZero
  else if opcField c.word = 0x01#8 then .instr (.new (argField c.word).toNat c.payload)
  else if opcField c.word = 0x02#8 then
    if argField c.word = 0#8 then .instr (.update c.payload) else .illegal .argNotZero
  else if opcField c.word = 0x03#8 then
    if argField c.word = 0#8 then
      if c.payload.length = 0 then .instr .finalize else .illegal .payloadNotEmpty
    else .illegal .argNotZero
  else .illegal .reservedOpcode

/-- A command word with `RSVD = 0` (R51). -/
def commandWord (arg opc : BitVec 8) : CommandWord := 0#16 ++ (arg ++ opc)

/-- The command that spells an instruction (R52, R101, R102, R103). -/
def encode : Instr → Command
  | .new t P => ⟨commandWord (BitVec.ofNat 8 t) 0x01#8, P⟩
  | .update P => ⟨commandWord 0#8 0x02#8, P⟩
  | .finalize => ⟨commandWord 0#8 0x03#8, []⟩

/-- A row of the opcode table: a word `w` belongs to it when `w &&& mask = pattern`. -/
structure OpcodeRow where
  mnemonic : String
  mask     : CommandWord
  pattern  : CommandWord
deriving DecidableEq, Repr

/-- The rows of spec/opcode_table.json, in its order. -/
def opcodeTable : List OpcodeRow :=
  [ ⟨"NEW", 0xFFFF00FF#32, 0x00000001#32⟩,
    ⟨"UPDATE", 0xFFFFFFFF#32, 0x00000002#32⟩,
    ⟨"FINALIZE", 0xFFFFFFFF#32, 0x00000003#32⟩ ]

/-- The row that an instruction is an instance of. -/
def Instr.row : Instr → OpcodeRow
  | .new _ _ => ⟨"NEW", 0xFFFF00FF#32, 0x00000001#32⟩
  | .update _ => ⟨"UPDATE", 0xFFFFFFFF#32, 0x00000002#32⟩
  | .finalize => ⟨"FINALIZE", 0xFFFFFFFF#32, 0x00000003#32⟩

/-- The command with the low `nbits` bits of `w` as its word and no payload: the table gives a payload no
bits (log 12). -/
def tableCommand (nbits w : Nat) : Command := ⟨BitVec.ofNat 32 (w % 2 ^ nbits), []⟩

/-- The instruction that the decoder reads from an opcode-table word. -/
def decodeTableWord (nbits w : Nat) : Option Instr :=
  match decode (tableCommand nbits w) with
  | .instr i => some i
  | .illegal _ => none

end Sys2Proof
end

