-- ==== Sys2Proof/Machine/State.lean ====
section
/-! DEFINITION. The state of the core (10_state.md R11) with what the host and the cipher port give it and
what an observer sees of it (00_scope.md R10), and the two ways a step can stop. -/

namespace Sys2Proof.Machine

/-- The sequencer state (R12). The fourth code of the two bits is written by no rule, and R12 lets a model
take a three-constructor type (log 8). -/
inductive SeqState where
  | idle
  | ready
  | finalized
deriving DecidableEq, Repr

/-- The errors the core reports (R110). -/
inductive ErrorCause where
  | invalidArgument
  | stateError
  | cipherError
  | illegalCommand
deriving DecidableEq, Repr

/-- The status of a response (R56); its byte is `Status.code`. -/
inductive Status where
  | ok
  | error (e : ErrorCause)
deriving DecidableEq, Repr

/-- A response `(STATUS, RESULT)` (R50). -/
structure Response where
  status : Status
  result : Bytes
deriving DecidableEq, Repr

/-- What came back on the cipher port: `Ok(c)`, `Fail` (R58), or nothing (R137). -/
inductive PortAnswer where
  | ok (c : Block)
  | fail
  | unanswered
deriving DecidableEq, Repr

/-- One entry of the port trace: the key bytes and the block sent, and the answer (R10, R37). -/
structure PortTxn where
  key    : Bytes
  block  : Block
  answer : PortAnswer
deriving DecidableEq, Repr

/-- What the host does to the core, between commands or to a command in progress. -/
inductive HostEvent where
  /-- A command is presented and its response awaited (R36, R50). -/
  | command (c : Command)
  /-- The reset input between commands (R130). -/
  | reset
  /-- A command is presented, and the reset input abandons it before its response, after `sent` port
  requests or after all of its requests if it makes fewer (R131, log 6). -/
  | commandCutByReset (c : Command) (sent : Nat)
  /-- A second command is presented before the response to the first (R134). -/
  | overlap (first second : Command)
deriving DecidableEq, Repr

/-- The whole state. The first nine fields are the registers of R11 (`BUFLEN` is the length of `buf`, see
`State.buflen`). The others are the model's own: the host's event stream, the two observations of R10, and
the port's draws. -/
structure State where
  /-- `SEQ` (R12). -/
  seq : SeqState
  /-- `KEY`, 32 bytes (R13). -/
  key : Vector Byte 32
  /-- `KEYLEN`, 6 bits (R13). -/
  keylen : Fin 64
  /-- `TAGSIZE`, 5 bits (R14). -/
  tagsize : Fin 32
  /-- `CV`, the chaining value (R15). -/
  cv : Block
  /-- `BUF`, the pending bytes in arrival order (R16). -/
  buf : Bytes
  /-- `SKVALID` (R17). -/
  skvalid : Bool
  /-- `K1` (R17). -/
  k1 : Block
  /-- `K2` (R17). -/
  k2 : Block
  /-- The host's events that are still to come, oldest first (log 4). -/
  inbox : List HostEvent
  /-- Observation (a) of R10: the responses returned, oldest first (log 5). -/
  responses : List Response
  /-- Observation (b) of R10: the port transactions made, oldest first (log 5). -/
  portTrace : List PortTxn
  /-- What the port does with the coming transactions, as far as it is laid down (log 2). -/
  portPlan : List PortFate
  /-- How many transactions were made: the argument of the free draw (log 2). -/
  portCount : Nat
deriving DecidableEq, Repr

/-- Why a step stops with a fault. -/
inductive Fault where
  /-- Raised by a command whose cipher-port transaction is never answered: the command never completes, a hang
  and neither a failure nor a success (R137, I11). Safe: the model stops where the hardware waits forever. -/
  | portNeverAnswers
deriving DecidableEq, Repr

/-- Why a step has no meaning. -/
inductive Refusal where
  /-- An instruction with no meaning yet. No arm of the dispatch uses it. Safe. -/
  | notModelled (mnemonic : String)
  /-- Raised by the host event `overlap`: overlapping commands have no meaning, and a run that has them is
  refused (R134, I13). Safe. -/
  | overlappingCommands
deriving DecidableEq, Repr

/-- The machine right after reset (R11, R130), with nothing presented, observed or laid down yet. -/
def State.reset : State where
  seq := .idle
  key := Vector.replicate 32 0
  keylen := 0
  tagsize := 0
  cv := 0#128
  buf := []
  skvalid := false
  k1 := 0#128
  k2 := 0#128
  inbox := []
  responses := []
  portTrace := []
  portPlan := []
  portCount := 0

end Sys2Proof.Machine
end

