-- ==== Sys2Proof/Machine/Operands.lean ====
section
/-! DEFINITION. The operand forms of the core: the byte order of a block (00_scope.md R7, 20_memory.md R32),
truncation and slices (R6, R8), the key bytes a command loads and the core sends (10_state.md R13). -/

namespace Sys2Proof

/-- `blk` of a byte sequence (R7): the first byte is the most significant. -/
def Block.ofBytes (bs : Bytes) : Block := bs.foldl (fun acc b => (acc <<< 8) ||| b.setWidth 128) 0#128

/-- Byte `i` of a block (R7): byte 0 is bits 127..120, byte 15 is bits 7..0. -/
def Block.byte (B : Block) (i : Nat) : Byte := B.extractLsb' (8 * (15 - i)) 8

/-- The sixteen bytes of a block, byte 0 first (R7). -/
def Block.toBytes (B : Block) : Bytes := (List.range 16).map fun i => Block.byte B i

/-- `S[i..j)` (R6). -/
def slice (S : Bytes) (i j : Nat) : Bytes := (S.drop i).take (j - i)

namespace Machine

/-- `trunc(B, t) = B[0..t)`, the leftmost `t` bytes (R8, R93). -/
def truncate (B : Block) (t : Nat) : Bytes := (Block.toBytes B).take t

/-- `P ‖ ZERO(32 − len(P))`, the value NEW writes to `KEY` (R101, R13). -/
def keyRegister (P : Bytes) : Vector Byte 32 := Vector.ofFn fun i => P.getD i.val 0

/-- `KEY[0..KEYLEN)`, the key bytes sent with every port request (R13, R58). -/
def State.keyBytes (s : State) : Bytes := s.key.toList.take s.keylen.val

/-- `BUFLEN`, the length of `BUF` (R11, R16). -/
def State.buflen (s : State) : Nat := s.buf.length

end Machine

end Sys2Proof
end

