-- ==== Sys2Proof/Machine/Flags.lean ====
section
/-! DEFINITION. The core has no condition codes (10_state.md R23). What it has in their place: the status codes
of a response (30_encoding.md R56), the codes of SEQ (R12), the LifecycleFlag (R12, R23), and the check of NEW's
arguments (43_sequencer.md R101, 60_exceptions.md R112). -/

namespace Sys2Proof.Machine

/-- The code of an error (R110). -/
def ErrorCause.code : ErrorCause → Byte
  | .invalidArgument => 0x01#8
  | .stateError => 0x02#8
  | .cipherError => 0x03#8
  | .illegalCommand => 0x04#8

/-- The `STATUS` byte of a response (R56). -/
def Status.code : Status → Byte
  | .ok => 0x00#8
  | .error e => e.code

/-- The two bits of `SEQ` (R12). -/
def SeqState.code : SeqState → BitVec 2
  | .idle => 0#2
  | .ready => 1#2
  | .finalized => 2#2

/-- The source's LifecycleFlag, the predicate `SEQ = FINALIZED` (R12). -/
def State.lifecycleFlag (s : State) : Bool := decide (s.seq = .finalized)

/-- NEW's arguments are accepted: `len(P) ∈ {16, 32}` and `1 ≤ t ≤ 16` (R101). -/
def newArgsValid (t : Nat) (P : Bytes) : Bool :=
  decide (P.length ∈ Config.keyLengths) && decide (Config.tagMin ≤ t) && decide (t ≤ Config.tagMax)

end Sys2Proof.Machine
end

