-- ==== Sys2Proof/Machine/Ops.lean ====
section
/-! DEFINITION. The shared operations: responding, the cipher port (00_scope.md R9 `PortEncrypt`), zeroization
(10_state.md R24), error entry (60_exceptions.md R116), and reset (70_reset_and_hazards.md R130, R131). The core
has no return from an error (R118), so there is none beside error entry. -/

namespace Sys2Proof.Machine

/-- How an internal operation ends: with a value, by `raise CipherError` (R9), or not at all because the port
never answers (R137). Each carries the state it left. -/
inductive Op (α : Type) where
  | done (a : α) (s : State)
  | raised (s : State)
  | hung (s : State)
deriving DecidableEq, Repr

/-- Go on with `f` where the operation gave a value. `raise` and a hang end the command at once (R9, R115). -/
def Op.bind {α β : Type} (x : Op α) (f : α → State → Op β) : Op β :=
  match x with
  | .done a s => f a s
  | .raised s => .raised s
  | .hung s => .hung s

/-- The state an operation left, however it ended. -/
def Op.state {α : Type} : Op α → State
  | .done _ s => s
  | .raised s => s
  | .hung s => s

/-- `respond(status, result)` (R9): one more response returned to the host. -/
def State.respond (s : State) (st : Status) (r : Bytes) : State :=
  { s with responses := s.responses ++ [⟨st, r⟩] }

/-- Zeroization (R24): every data register at its reset value. -/
def State.zeroize (s : State) : State :=
  { s with
    key := Vector.replicate 32 0
    keylen := 0
    tagsize := 0
    cv := 0#128
    buf := []
    skvalid := false
    k1 := 0#128
    k2 := 0#128 }

/-- `SEQ <- FINALIZED`, then zeroization: how an instance ends (R24, R103, R116). -/
def State.terminate (s : State) : State := { s with seq := .finalized }.zeroize

/-- Error entry (R116), the one operation that reports an error: a CipherError ends the instance, the other
three change no register, and the response is the error with no result (R117). -/
def State.errorEntry (s : State) (e : ErrorCause) : State :=
  match e with
  | .cipherError => s.terminate.respond (.error .cipherError) []
  | .invalidArgument => s.respond (.error .invalidArgument) []
  | .stateError => s.respond (.error .stateError) []
  | .illegalCommand => s.respond (.error .illegalCommand) []

/-- End a command whose work was an operation: its value goes to `k`, `raise CipherError` takes error entry
(R100, R116), and a hang is the model's fault (R137). -/
def Op.finish {α : Type} (x : Op α) (k : α → State → State) : Host.Outcome State Fault Refusal :=
  match x with
  | .done a s => .next (k a s)
  | .raised s => .next (s.errorEntry .cipherError)
  | .hung _ => .fault .portNeverAnswers

/-- What the port does with the transaction `j` places ahead: the entry of `portPlan`, and the free draw where
the plan is used up (R5 `PORT_FAIL`, log 2). -/
def State.fateAt (s : State) (j : Nat) : PortFate :=
  match s.portPlan[j]? with
  | some f => f
  | none => Config.portFate (s.portCount + j)

/-- Append transactions to the port trace and move past their draws (R10, R37). -/
def State.logTxns (s : State) (es : List PortTxn) : State :=
  { s with
    portTrace := s.portTrace ++ es
    portPlan := s.portPlan.drop es.length
    portCount := s.portCount + es.length }

/-- `PortEncrypt(b)` (R9, R58): send `(KEY[0..KEYLEN), b)` and take the answer. -/
def portEncrypt (enc : Cipher) (b : Block) (s : State) : Op Block :=
  match s.fateAt 0 with
  | .answers => .done (enc s.keyBytes b) (s.logTxns [⟨s.keyBytes, b, .ok (enc s.keyBytes b)⟩])
  | .fails => .raised (s.logTxns [⟨s.keyBytes, b, .fail⟩])
  | .silent => .hung (s.logTxns [⟨s.keyBytes, b, .unanswered⟩])

/-- The reset input (R130): every register at its reset value. The host's coming events, the observations and
the port's draws are outside the core and go on (log 6). -/
def State.resetInput (s : State) : State :=
  { State.reset with
    inbox := s.inbox
    responses := s.responses
    portTrace := s.portTrace
    portPlan := s.portPlan
    portCount := s.portCount }

/-- A reset that abandons a command after the transactions `txns` (R131): no response, the registers as after
reset, and the requests that were sent stay in the port trace. -/
def State.abandonCommand (s : State) (txns : List PortTxn) : State := s.resetInput.logTxns txns

end Sys2Proof.Machine
end

