-- ==== Sys2Proof/Machine/Accumulator.lean ====
section
/-! DEFINITION. The block-chaining accumulator (41_stream_accumulator.md R80, R81). -/

namespace Sys2Proof.Machine

/-- `CV <- C`, `BUF <- B`: the only registers that the accumulator writes (R80, R81). -/
def State.setChain (s : State) (C : Block) (B : Bytes) : State := { s with cv := C, buf := B }

/-- `CV <- C`, `BUF <- []` (R80). -/
def State.chainTo (s : State) (C : Block) : State := s.setChain C []

/-- `BUF <- BUF ‖ [d]` (R81). -/
def State.pushByte (s : State) (d : Byte) : State := s.setChain s.cv (s.buf ++ [d])

/-- `ProcessBlock()` (R80): the block sent is exactly `CV ⊕ BUF`. -/
def processBlock (enc : Cipher) (s : State) : Op Unit :=
  (portEncrypt enc (s.cv ^^^ Block.ofBytes s.buf) s).bind fun C s1 => .done () (s1.chainTo C)

/-- `Absorb(P)` (R81): byte by byte in index order. A full buffer is chained only when a further byte arrives
(R83). -/
def absorb (enc : Cipher) : Bytes → State → Op Unit
  | [], s => .done () s
  | d :: ds, s =>
    if s.buflen = Config.blockBytes then
      (processBlock enc s).bind fun _ s1 => absorb enc ds (s1.pushByte d)
    else absorb enc ds (s.pushByte d)

end Sys2Proof.Machine
end

