-- ==== Sys2Proof/Machine/Subkeys.lean ====
section
/-! DEFINITION. The subkey deriver (40_subkey_deriver.md R70 to R73). -/

namespace Sys2Proof.Machine

/-- `shl1(B)` (R8): bit 127 is dropped and a 0 enters at bit 0. -/
def shl1 (B : Block) : Block := B <<< 1

/-- `DoubleGF(X)` (R70). -/
def doubleGF (X : Block) : Block :=
  if X.msb then shl1 X ^^^ Config.rConst else shl1 X

/-- The form of R71, with no branch on data: `shl1(X) ⊕ (ZERO(15) ‖ [0x87 · msb])`. -/
def doubleGFBranchFree (X : Block) : Block :=
  shl1 X ^^^ Block.ofBytes (zeroBytes 15 ++ [0x87#8 * (BitVec.ofBool X.msb).setWidth 8])

/-- Write the subkeys derived from `L` (R72): `K1`, `K2` and `SKVALID`. -/
def State.setSubkeys (s : State) (L : Block) : State :=
  { s with k1 := doubleGF L, k2 := doubleGF (doubleGF L), skvalid := true }

/-- `DeriveSubkeys()` (R72): one transaction with the zero block. A failure writes no subkey. -/
def deriveSubkeys (enc : Cipher) (s : State) : Op Unit :=
  (portEncrypt enc 0#128 s).bind fun L s1 => .done () (s1.setSubkeys L)

end Sys2Proof.Machine
end

