-- ==== Sys2Proof/Machine/Finalizer.lean ====
section
/-! DEFINITION. Padding and the final-block multiplexer (42_finalizer.md R90 to R94). -/

namespace Sys2Proof.Machine

/-- `Pad(B) = B ‖ [0x80] ‖ ZERO(15 − k)` for a `B` of `k ≤ 15` bytes (R90). -/
def pad (B : Bytes) : Bytes := B ++ [0x80#8] ++ zeroBytes (15 - B.length)

/-- `FinalBlock()` (R91): a full block takes `K1`, a partial one is padded and takes `K2`. -/
def finalBlock (s : State) : Block :=
  if s.buflen = Config.blockBytes then Block.ofBytes s.buf ^^^ s.k1
  else Block.ofBytes (pad s.buf) ^^^ s.k2

/-- The final cipher call (R92). -/
def finalEncrypt (enc : Cipher) (s : State) : Op Block := portEncrypt enc (finalBlock s ^^^ s.cv) s

/-- `FinalizeBody()` (R94): derive the subkeys if they are not there, make the final call, truncate. -/
def finalizeBody (enc : Cipher) (s : State) : Op Bytes :=
  (if s.skvalid then .done () s else deriveSubkeys enc s).bind fun _ s1 =>
    (finalEncrypt enc s1).bind fun T s2 => .done (truncate T s2.tagsize.val) s2

end Sys2Proof.Machine
end

