-- ==== Sys2Proof/Machine/Sequencer.lean ====
section
/-! DEFINITION. The three commands (43_sequencer.md R101 to R103), each over an arbitrary cipher and then with
the core's own port, and the pieces of a step around them (R100, 70_reset_and_hazards.md R131). -/

namespace Sys2Proof.Machine

/-- The registers of a new instance (R101), whatever was there before. -/
def State.loadInstance (s : State) (t : Nat) (P : Bytes) : State :=
  { s with
    seq := .ready
    key := keyRegister P
    keylen := Fin.ofNat 64 P.length
    tagsize := Fin.ofNat 32 t
    cv := 0#128
    buf := []
    skvalid := false
    k1 := 0#128
    k2 := 0#128 }

/-- NEW (R101): accepted in every SEQ state; invalid arguments write no register. -/
def execNew (t : Nat) (P : Bytes) (s : State) : Host.Outcome State Fault Refusal :=
  if newArgsValid t P then .next ((s.loadInstance t P).respond .ok [])
  else .next (s.errorEntry .invalidArgument)

/-- UPDATE (R102) over a cipher. -/
def updateWith (enc : Cipher) (P : Bytes) (s : State) : Host.Outcome State Fault Refusal :=
  if s.seq = .ready then (absorb enc P s).finish fun _ s1 => s1.respond .ok []
  else .next (s.errorEntry .stateError)

/-- FINALIZE (R103) over a cipher. The tag's length is TAGSIZE as it was before zeroization. -/
def finalizeWith (enc : Cipher) (s : State) : Host.Outcome State Fault Refusal :=
  if s.seq = .ready then (finalizeBody enc s).finish fun tag s1 => s1.terminate.respond .ok tag
  else .next (s.errorEntry .stateError)

/-- UPDATE on the core: the cipher is its port's ENCRYPT (R58). -/
def execUpdate (P : Bytes) (s : State) : Host.Outcome State Fault Refusal := updateWith Config.encrypt P s

/-- FINALIZE on the core: the cipher is its port's ENCRYPT (R58). -/
def execFinalize (s : State) : Host.Outcome State Fault Refusal := finalizeWith Config.encrypt s

/-- The state in which an operation of a command in READY ends, or the state itself where the command makes no
transaction. -/
def commandWork (enc : Cipher) (i : Instr) (s : State) : State :=
  match i with
  | .new _ _ => s
  | .update P => if s.seq = .ready then (absorb enc P s).state else s
  | .finalize => if s.seq = .ready then (finalizeBody enc s).state else s

/-- The port transactions a presented command makes, in order; an illegal one makes none (R104, R111). -/
def commandTxns (enc : Cipher) (c : Command) (s : State) : List PortTxn :=
  match decode c with
  | .instr i => (commandWork enc i s).portTrace.drop s.portTrace.length
  | .illegal _ => []

/-- A command that the reset input abandons after `sent` of its port requests (R131, log 6). -/
def commandCutByReset (enc : Cipher) (c : Command) (sent : Nat) (s : State) : State :=
  s.abandonCommand ((commandTxns enc c s).take sent)

/-- The answer to an illegal command (R100, R111). -/
def illegalCommand (s : State) : State := s.errorEntry .illegalCommand

/-- The state with the host's coming events replaced. -/
def State.withInbox (s : State) (es : List HostEvent) : State := { s with inbox := es }

end Sys2Proof.Machine
end

