-- ==== Sys2Proof/Machine/Dispatch.lean ====
section
/-! DEFINITION. The dispatch of 43_sequencer.md R100: one arm per instruction. -/

namespace Sys2Proof.Machine

def exec (i : Instr) (s : State) : Host.Outcome State Fault Refusal :=
  match i with
  | .new t P => Sys2Proof.Machine.execNew t P s
  | .update P => Sys2Proof.Machine.execUpdate P s
  | .finalize => Sys2Proof.Machine.execFinalize s

end Sys2Proof.Machine
end

