-- ==== Sys2Proof/Machine/Step.lean ====
section
/-! DEFINITION. One step of the core: the host's next event (00_scope.md R2, 20_memory.md R36, 43_sequencer.md
R100). -/

namespace Sys2Proof.Machine

/-- `Step(CMD, P)` (R100): decode, then the instruction or the IllegalCommand response. -/
def runCommand (c : Command) (s : State) : Host.Outcome State Fault Refusal :=
  match decode c with
  | .instr i => exec i s
  | .illegal _ => .next (illegalCommand s)

/-- One step takes the oldest event of the host. With none presented the core waits, unchanged (log 4). -/
def step (s : State) : Host.Outcome State Fault Refusal :=
  match s.inbox with
  | [] => .next s
  | .command c :: es => runCommand c (s.withInbox es)
  | .reset :: es => .next (s.withInbox es).resetInput
  | .commandCutByReset c n :: es => .next (commandCutByReset Config.encrypt c n (s.withInbox es))
  | .overlap _ _ :: _ => .refused .overlappingCommands

/-- The state with the command of an opcode-table word presented next (log 12). -/
def State.withFetchWord (s : State) (nbits w : Nat) : State :=
  s.withInbox (.command (tableCommand nbits w) :: s.inbox)

end Sys2Proof.Machine
end

