-- ==== Sys2Proof/Machine/Script.lean ====
section
/-! DEFINITION. The command-script syntax of 30_encoding.md R61 and the pseudo-command MAC of R62: a line of text
to a script line, and a script line to the commands it stands for. The core never sees a script (log 13). -/

namespace Sys2Proof

/-- One line of a script (R61, R62). -/
inductive ScriptLine where
  /-- `NEW tag=<d>, key=<hex>` -/
  | new (tag : Nat) (key : Bytes)
  /-- `UPDATE <hex>`, and `UPDATE ""` for the empty payload -/
  | update (msg : Bytes)
  /-- `FINALIZE` -/
  | finalize
  /-- `.raw 0x<8 hex digits>, <hex>|""` -/
  | raw (word : CommandWord) (payload : Bytes)
  /-- `MAC tag=<d>, key=<hex>, msg=<hex>` -/
  | mac (tag : Nat) (key msg : Bytes)
  /-- a line that holds at most a comment -/
  | blank
deriving DecidableEq, Repr

/-- The commands of a line. The assembler rejects a tag outside 0..255, and leaves the range 1..16 to the core
(R61). -/
def ScriptLine.commands : ScriptLine → Option (List Command)
  | .new tag key => if tag < 256 then some [encode (.new tag key)] else none
  | .update msg => some [encode (.update msg)]
  | .finalize => some [encode .finalize]
  | .raw word payload => some [⟨word, payload⟩]
  | .mac tag key msg =>
    if tag < 256 then some [encode (.new tag key), encode (.update msg), encode .finalize] else none
  | .blank => some []

/-- The value of a decimal digit. -/
def decDigit (c : Char) : Option Nat :=
  if 48 ≤ c.toNat ∧ c.toNat ≤ 57 then some (c.toNat - 48) else none

/-- The value of a hexadecimal digit. DESIGN CHOICE, safe: in either case (log 13). -/
def hexDigit (c : Char) : Option Nat :=
  if 48 ≤ c.toNat ∧ c.toNat ≤ 57 then some (c.toNat - 48)
  else if 97 ≤ c.toNat ∧ c.toNat ≤ 102 then some (c.toNat - 87)
  else if 65 ≤ c.toNat ∧ c.toNat ≤ 70 then some (c.toNat - 55)
  else none

/-- Digits in a base, most significant first, on top of the value read so far. -/
def readDigits (base : Nat) (digit : Char → Option Nat) : List Char → Nat → Option Nat
  | [], acc => some acc
  | c :: cs, acc =>
    match digit c with
    | some d => readDigits base digit cs (acc * base + d)
    | none => none

/-- Spaces and tabs at both ends removed. DESIGN CHOICE, safe: R61 lets spaces be ignored inside `<hex>` only; where
else blanks may stand, and that a tab is one, is the model's choice (log 13). -/
def trimBlanks (cs : List Char) : List Char :=
  ((cs.dropWhile fun c => c = ' ' || c = '\t').reverse.dropWhile fun c => c = ' ' || c = '\t').reverse

/-- `<d>` (R61). DESIGN CHOICE, safe: blanks on both sides of it are accepted, between `tag=` and `<d>` and before the
comma, which R61 does not show; at least one digit, leading zeros allowed (log 13). -/
def readDecimal (cs : List Char) : Option Nat :=
  match trimBlanks cs with
  | [] => none
  | d :: ds => readDigits 10 decDigit (d :: ds) 0

/-- Pairs of hexadecimal digits to bytes, byte 0 first. -/
def readHexPairs : List Char → Option Bytes
  | [] => some []
  | [_] => none
  | a :: b :: cs =>
    match hexDigit a, hexDigit b, readHexPairs cs with
    | some x, some y, some bs => some (BitVec.ofNat 8 (16 * x + y) :: bs)
    | _, _, _ => none

/-- `<hex>` (R61): an even number of digits, with spaces and `_` ignored. DESIGN CHOICE, safe: tabs are ignored too,
the ignored characters may stand at its ends, and at least one pair of digits is there (log 13). -/
def readHex (cs : List Char) : Option Bytes :=
  match cs.filter fun c => ¬(c = ' ' || c = '\t' || c = '_') with
  | [] => none
  | d :: ds => readHexPairs (d :: ds)

/-- `<hex>` or `""` (R61). DESIGN CHOICE, safe: blanks on both sides of `""` are accepted (log 13). -/
def readPayload (cs : List Char) : Option Bytes :=
  if trimBlanks cs = ['"', '"'] then some [] else readHex cs

/-- The text split at its commas. -/
def splitCommas : List Char → List (List Char)
  | [] => [[]]
  | c :: cs =>
    match splitCommas cs with
    | [] => [[c]]
    | part :: parts => if c = ',' then [] :: part :: parts else (c :: part) :: parts

/-- What follows a field's name and its equals sign. DESIGN CHOICE, safe: blanks are accepted before the name and none
between the name and the equals sign (log 13). -/
def afterLabel (label : List Char) (cs : List Char) : Option (List Char) :=
  if (trimBlanks cs).take label.length = label then some ((trimBlanks cs).drop label.length) else none

/-- `0x<8 hex digits>` (R61). DESIGN CHOICE, safe: blanks on both sides of it are accepted, a blank or `_` inside it
and `0X` are not (log 13). -/
def readWord (cs : List Char) : Option CommandWord :=
  match trimBlanks cs with
  | '0' :: 'x' :: ds =>
    if ds.length = 8 then (readDigits 16 hexDigit ds 0).map (BitVec.ofNat 32) else none
  | _ => none

/-- The operands of `NEW` (R61). DESIGN CHOICE, safe: in the order shown, blanks around the comma accepted (log 13). -/
def readNewOperands (cs : List Char) : Option ScriptLine :=
  match splitCommas cs with
  | [a, b] => do
    let tag ← (afterLabel ['t', 'a', 'g', '='] a).bind readDecimal
    let key ← (afterLabel ['k', 'e', 'y', '='] b).bind readHex
    some (.new tag key)
  | _ => none

/-- The operands of `.raw` (R61). DESIGN CHOICE, safe: blanks around the comma accepted (log 13). -/
def readRawOperands (cs : List Char) : Option ScriptLine :=
  match splitCommas cs with
  | [a, b] => do
    let word ← readWord a
    let payload ← readPayload b
    some (.raw word payload)
  | _ => none

/-- The operands of `MAC` (R62). DESIGN CHOICE, safe: in the order shown, blanks around the commas accepted, `msg=""`
not accepted (log 13). -/
def readMacOperands (cs : List Char) : Option ScriptLine :=
  match splitCommas cs with
  | [a, b, c] => do
    let tag ← (afterLabel ['t', 'a', 'g', '='] a).bind readDecimal
    let key ← (afterLabel ['k', 'e', 'y', '='] b).bind readHex
    let msg ← (afterLabel ['m', 's', 'g', '='] c).bind readHex
    some (.mac tag key msg)
  | _ => none

/-- The part of a line before its comment, which `;` starts (R61). -/
def stripComment (cs : List Char) : List Char := cs.takeWhile fun c => ¬(c = ';')

/-- One line of text (R61, R62), `none` where it is no line of a script. DESIGN CHOICE, safe: blanks at both ends of the
line, mnemonics in the case R61 writes them, a line with at most a comment stands for no command, and what neither
R61, R62 nor log 13 names is rejected. -/
def parseLine (cs : List Char) : Option ScriptLine :=
  let line := trimBlanks (stripComment cs)
  let word := line.takeWhile fun c => ¬(c = ' ' || c = '\t')
  let rest := line.drop word.length
  if word = [] then some .blank
  else if word = ['N', 'E', 'W'] then readNewOperands rest
  else if word = ['U', 'P', 'D', 'A', 'T', 'E'] then (readPayload rest).map .update
  else if word = ['F', 'I', 'N', 'A', 'L', 'I', 'Z', 'E'] then
    if trimBlanks rest = [] then some .finalize else none
  else if word = ['.', 'r', 'a', 'w'] then readRawOperands rest
  else if word = ['M', 'A', 'C'] then readMacOperands rest
  else none

/-- The commands of a line of text. -/
def assembleLine (cs : List Char) : Option (List Command) := (parseLine cs).bind ScriptLine.commands

/-- The commands of a script, in the order of its lines. DESIGN CHOICE, safe: one rejected line rejects the script
(log 13). -/
def assemble : List (List Char) → Option (List Command)
  | [] => some []
  | l :: ls => do
    let c ← assembleLine l
    let cs ← assemble ls
    some (c ++ cs)

end Sys2Proof
end

