-- ==== Sys2Proof/Machine/Reference.lean ====
section
/-! DEFINITION. What the spec says of whole messages, as functions of the key and the message alone: the chain
of 41_stream_accumulator.md R85, the counts of R84 and 10_state.md R22, the source's wording of Absorb (R82), and
the tag function of 42_finalizer.md R96. The machine does not use them; claims compare it with them. -/

namespace Sys2Proof.Machine

/-- Block `j` of a message (20_memory.md R31). -/
def messageBlock (M : Bytes) (j : Nat) : Block := Block.ofBytes (slice M (16 * j) (16 * j + 16))

/-- The chain from the value `C`: after `j` blocks of `D` (R85, where `C` is the zero block). -/
def chainFrom (enc : Cipher) (k : Bytes) (C : Block) (D : Bytes) : Nat → Block
  | 0 => C
  | j + 1 => enc k (chainFrom enc k C D j ^^^ messageBlock D j)

/-- The block that chaining step `j` sends (R80). -/
def chainRequest (enc : Cipher) (k : Bytes) (C : Block) (D : Bytes) (j : Nat) : Block :=
  chainFrom enc k C D j ^^^ messageBlock D j

/-- The first `n` transactions of the chain (R80, R81). -/
def chainTxns (enc : Cipher) (k : Bytes) (C : Block) (D : Bytes) (n : Nat) : List PortTxn :=
  (List.range n).map fun j => ⟨k, chainRequest enc k C D j, .ok (chainFrom enc k C D (j + 1))⟩

/-- The state when `n` blocks of `D` are chained from its CV, with those transactions and then `es` logged, and
`B` is left in the buffer (R80, R81). -/
def State.chained (s : State) (enc : Cipher) (D : Bytes) (n : Nat) (B : Bytes) (es : List PortTxn) : State :=
  (s.setChain (chainFrom enc s.keyBytes s.cv D n) B).logTxns (chainTxns enc s.keyBytes s.cv D n ++ es)

/-- The transaction of chaining step `j` where the port does not answer it with a block (R80). -/
def stoppedTxn (enc : Cipher) (k : Bytes) (C : Block) (D : Bytes) (j : Nat) (a : PortAnswer) : PortTxn :=
  ⟨k, chainRequest enc k C D j, a⟩

/-- `ceil(N / 16)`, the number of blocks of a message of `N` bytes. -/
def blockCount (N : Nat) : Nat := (N + 15) / 16

/-- R84: the transactions of an UPDATE of `p` bytes on a buffer of `b` bytes,
`max(0, ceil((b + p) / 16) − 1)`. -/
def absorbTxnCount (b p : Nat) : Nat := blockCount (b + p) - 1

/-- R22: BUFLEN after a message of `N` bytes. -/
def bufLenAfter (N : Nat) : Nat := if N = 0 then 0 else (N - 1) % 16 + 1

/-- `L = ENCRYPT(k, ZERO(16))` (R72, R96). -/
def subkeySeed (enc : Cipher) (k : Bytes) : Block := enc k 0#128

/-- `m = max(1, ceil(N / 16))` (R96). -/
def cmacBlockCount (M : Bytes) : Nat := max 1 (blockCount M.length)

/-- `Mlast` (R96). -/
def cmacLastBlock (enc : Cipher) (k : Bytes) (M : Bytes) : Block :=
  if 1 ≤ M.length ∧ M.length % 16 = 0 then
    Block.ofBytes (slice M (16 * (cmacBlockCount M - 1)) (16 * cmacBlockCount M)) ^^^
      doubleGF (subkeySeed enc k)
  else
    Block.ofBytes (pad (slice M (16 * (cmacBlockCount M - 1)) M.length)) ^^^
      doubleGF (doubleGF (subkeySeed enc k))

/-- The block of the last cipher call, `Mlast ⊕ C_{m−1}` (R96). -/
def cmacFinalRequest (enc : Cipher) (k : Bytes) (M : Bytes) : Block :=
  cmacLastBlock enc k M ^^^ chainFrom enc k 0#128 M (cmacBlockCount M - 1)

/-- The tag (R96). -/
def cmacTag (enc : Cipher) (k : Bytes) (t : Nat) (M : Bytes) : Bytes :=
  truncate (enc k (cmacFinalRequest enc k M)) t

/-- All port transactions of an instance whose message is `M` (R84, R94): the chain, then `L`, then `T`. -/
def cmacTxns (enc : Cipher) (k : Bytes) (M : Bytes) : List PortTxn :=
  chainTxns enc k 0#128 M (cmacBlockCount M - 1) ++
    [⟨k, 0#128, .ok (subkeySeed enc k)⟩,
     ⟨k, cmacFinalRequest enc k M, .ok (enc k (cmacFinalRequest enc k M))⟩]

/-- The source's loop (R82): while more than one full block is pending, take exactly one from the front, and chain
it. `fuel` bounds the number of rounds. -/
def drainSource (enc : Cipher) : Nat → State → Op Unit
  | 0, s => .done () s
  | fuel + 1, s =>
    if 16 < s.buf.length then
      (portEncrypt enc (s.cv ^^^ Block.ofBytes (s.buf.take 16)) s).bind fun C s1 =>
        drainSource enc fuel (s1.setChain C (s1.buf.drop 16))
    else .done () s

/-- The source's formulation of Absorb (R82): append the whole payload, then drain. -/
def absorbSource (enc : Cipher) (P : Bytes) (s : State) : Op Unit :=
  drainSource enc (s.buf.length + P.length) (s.setChain s.cv (s.buf ++ P))

/-- UPDATE with the source's formulation in Absorb's place. -/
def updateSourceWith (enc : Cipher) (P : Bytes) (s : State) : Host.Outcome State Fault Refusal :=
  if s.seq = .ready then (absorbSource enc P s).finish fun _ s1 => s1.respond .ok []
  else .next (s.errorEntry .stateError)

end Sys2Proof.Machine
end

