-- ==== Sys2Proof/Safety.lean ====
section
/-! DEFINITION. The terms that claims use: the invariant of every run (10_state.md R12 to R17, R24), what an
absorbed message means in the state (R22, R85), premises on the cipher port, and runs of several commands. -/

namespace Sys2Proof.Machine

/-- Every data register holds its reset value (R24). -/
def State.zeroed (s : State) : Bool :=
  decide (s.key = Vector.replicate 32 0) && decide (s.keylen = 0) && decide (s.tagsize = 0) &&
    decide (s.cv = 0#128) && decide (s.buf = []) && decide (s.skvalid = false) && decide (s.k1 = 0#128) && decide (s.k2 = 0#128)

/-- What the registers satisfy while an instance is in progress: R13 (key length, zero upper half of a short
key), R14, R16, R17 with R94 (subkeys not derived between commands). -/
def State.instanceOk (s : State) : Bool :=
  decide (s.keylen.val ∈ Config.keyLengths) &&
    decide (s.key.toList.drop s.keylen.val = zeroBytes (32 - s.keylen.val)) &&
    decide (Config.tagMin ≤ s.tagsize.val) && decide (s.tagsize.val ≤ Config.tagMax) &&
    decide (s.buf.length ≤ Config.blockBytes) && decide (s.skvalid = false) && decide (s.k1 = 0#128) && decide (s.k2 = 0#128)

/-- The invariant of the core: in READY the registers are those of an instance, and in IDLE and FINALIZED every
data register holds its reset value (R24). -/
def State.Inv (s : State) : Prop :=
  if s.seq = .ready then s.instanceOk = true else s.zeroed = true

/-- No port failure and no hang in the next `n` transactions (the premise of 43_sequencer.md R104, R105). -/
def State.portAnswers (s : State) (n : Nat) : Prop := ∀ j, j < n → s.fateAt j = .answers

/-- Every completed answer in the port trace is ENCRYPT of what was sent (R5, R58). -/
def State.traceHonest (s : State) : Prop :=
  ∀ e ∈ s.portTrace, ∀ c, e.answer = .ok c → c = Config.encrypt e.key e.block

/-- The message accepted by the instance in progress is `M` (R22, R31, R85), under a cipher: the buffer holds the
end of `M`, and the blocks before it are chained. -/
structure State.Absorbed (enc : Cipher) (s : State) (M : Bytes) : Prop where
  ready : s.seq = .ready
  buflen : s.buflen = bufLenAfter M.length
  buf : s.buf = M.drop (M.length - s.buflen)
  cv : s.cv = chainFrom enc s.keyBytes 0#128 M ((M.length - s.buflen) / 16)

/-- Instructions one after the other, stopping at the first fault or refusal. -/
def runInstrs : List Instr → State → Host.Outcome State Fault Refusal
  | [], s => .next s
  | i :: is, s =>
    match exec i s with
    | .next s1 => runInstrs is s1
    | .fault f => .fault f
    | .refused r => .refused r

/-- A NEW whose arguments are valid: the one instruction that starts an instance (R101, R118). -/
def startsInstance : Instr → Bool
  | .new t P => newArgsValid t P
  | .update _ => false
  | .finalize => false

/-- What the core answers while no instance is in progress and no valid NEW comes (R104, the rows of IDLE and
FINALIZED). -/
def noInstanceResponse : Instr → Response
  | .new _ _ => ⟨.error .invalidArgument, []⟩
  | .update _ => ⟨.error .stateError, []⟩
  | .finalize => ⟨.error .stateError, []⟩

/-- The registers of the core are the same in two states (the nine registers of R11). -/
def State.sameRegisters (s t : State) : Prop :=
  t.seq = s.seq ∧ t.key = s.key ∧ t.keylen = s.keylen ∧ t.tagsize = s.tagsize ∧ t.cv = s.cv ∧
    t.buf = s.buf ∧ t.skvalid = s.skvalid ∧ t.k1 = s.k1 ∧ t.k2 = s.k2

/-- Two instructions of the same kind whose operands agree in everything that is not secret: the tag size, and the
lengths of the payloads (70_reset_and_hazards.md R138). -/
def sameLengths : Instr → Instr → Prop
  | .new t P, .new t' P' => t = t' ∧ P.length = P'.length
  | .update P, .update P' => P.length = P'.length
  | .finalize, .finalize => True
  | _, _ => False

/-- Two states that agree in everything that is not a key, message or subkey byte (R138): the sequencer state, the
lengths, whether subkeys are there, and the port's draws. -/
structure State.publiclyEqual (s t : State) : Prop where
  seq : s.seq = t.seq
  keylen : s.keylen = t.keylen
  tagsize : s.tagsize = t.tagsize
  buflen : s.buflen = t.buflen
  skvalid : s.skvalid = t.skvalid
  portPlan : s.portPlan = t.portPlan
  portCount : s.portCount = t.portCount

end Sys2Proof.Machine
end

