-- ==== Sys2Proof/Certificates/Slice0/Obligations.lean ====
section
/-! DEFINITION. The statements about the K2 CMAC core that the provers are to settle. Each is about the model's own
step, meanings and decoder, and its docstring says which rule of spec/ it formalises. -/

open Sys2Proof Sys2Proof.Machine

/-! ### Reset and the invariant -/

/-- R130: reset sets every register to the reset value of R11, between commands too, and makes no port transaction and
no response. The observations and the host's coming events stand outside the core (log 6). -/
def Obligations.ResetSetsEveryRegister : Prop :=
  (State.reset.seq = .idle ∧ State.reset.key.toList = zeroBytes 32 ∧ State.reset.keylen.val = 0 ∧
    State.reset.tagsize.val = 0 ∧ State.reset.cv.toNat = 0 ∧ State.reset.buf = [] ∧ State.reset.buflen = 0 ∧
    State.reset.skvalid = false ∧ State.reset.k1.toNat = 0 ∧ State.reset.k2.toNat = 0) ∧
  ∀ (s : State) (es : List HostEvent), s.inbox = .reset :: es →
    ∃ t, step s = .next t ∧ State.reset.sameRegisters t ∧ t.portTrace = s.portTrace ∧ t.responses = s.responses ∧
      t.inbox = es

/-- The invariant of `StepKeepsInv` holds at reset. -/
def Obligations.ResetMeetsInvariant : Prop := State.reset.Inv

/-- Every step keeps the invariant: an instance in progress has a legal key length, zero bytes above a short key, a tag
size of 1 to 16, at most 16 buffered bytes and no derived subkeys (R13, R14, R16, R17, R94), and outside READY every
data register holds its reset value (R24). -/
def Obligations.StepKeepsInvariant : Prop :=
  ∀ s t : State, s.Inv → step s = .next t → t.Inv

/-- Every step keeps this: each answered transaction in the port trace carries ENCRYPT of exactly the key bytes and the
block that were sent (R5, R58). -/
def Obligations.PortTraceHoldsEncryptValues : Prop :=
  ∀ s t : State, s.traceHonest → step s = .next t → t.traceHonest

/-! ### Encoding -/

/-- Decoding an encoded instruction gives it back, for every well-formed one with every operand (R51 to R54, R59). -/
def Obligations.DecodeOfEncodeIsIdentity : Prop :=
  ∀ i : Instr, i.wf = true → decode (encode i) = .instr i

/-- A command that decodes to an instruction is that instruction's own encoding, and the instruction is well-formed:
every legal command has one spelling (R52, R60). -/
def Obligations.EncodeOfDecodeIsIdentity : Prop :=
  ∀ (c : Command) (i : Instr), decode c = .instr i → i.wf = true ∧ encode i = c

/-- R55: a command is illegal exactly under its clauses (a) to (d), and an illegal command gets `(IllegalCommand, [])`,
changes no register, and makes no port transaction, in every SEQ state (R111). -/
def Obligations.IllegalCommandsAreExactlyR55 : Prop :=
  ∀ c : Command,
    ((∃ why, decode c = .illegal why) ↔
      (c.word.extractLsb' 16 16 ≠ 0#16 ∨
        c.word.extractLsb' 0 8 ∉ [0x01#8, 0x02#8, 0x03#8] ∨
        (c.word.extractLsb' 0 8 ∈ [0x02#8, 0x03#8] ∧ c.word.extractLsb' 8 8 ≠ 0#8) ∨
        (c.word.extractLsb' 0 8 = 0x03#8 ∧ c.payload.length ≠ 0))) ∧
    ∀ (s : State) (es : List HostEvent), (∃ why, decode c = .illegal why) → s.inbox = .command c :: es →
      step s = .next { s with
        inbox := es
        responses := s.responses ++ [⟨.error .illegalCommand, []⟩] }

/-- The decoder agrees with spec/opcode_table.json: an instruction's word matches its own row, a word that matches a row
decodes to an instruction of that row unless it is a FINALIZE with a payload (R55 (d)), and no word matches two rows. -/
def Obligations.DecoderAgreesWithOpcodeTable : Prop :=
  (∀ (c : Command) (i : Instr), decode c = .instr i → i.row ∈ opcodeTable ∧ c.word &&& i.row.mask = i.row.pattern) ∧
  (∀ (c : Command) (r : OpcodeRow), r ∈ opcodeTable → c.word &&& r.mask = r.pattern →
    (∃ i : Instr, decode c = .instr i ∧ i.row = r) ∨ (r.mnemonic = "FINALIZE" ∧ c.payload.length ≠ 0)) ∧
  (∀ (w : CommandWord) (r q : OpcodeRow), r ∈ opcodeTable → q ∈ opcodeTable → w &&& r.mask = r.pattern →
    w &&& q.mask = q.pattern → r = q)

/-- Words written out from R51 and R52 decode to what they stand for. -/
def Obligations.SpecWordsDecode : Prop :=
  decode ⟨0x00001001#32, [0xAB#8]⟩ = .instr (.new 16 [0xAB#8]) ∧
  decode ⟨0x0000FF01#32, []⟩ = .instr (.new 255 []) ∧
  decode ⟨0x00000002#32, [0x01#8, 0x02#8]⟩ = .instr (.update [0x01#8, 0x02#8]) ∧
  decode ⟨0x00000003#32, []⟩ = .instr .finalize ∧
  decode ⟨0x00010001#32, []⟩ = .illegal .reservedNotZero ∧
  decode ⟨0x00000004#32, []⟩ = .illegal .reservedOpcode ∧
  decode ⟨0x00000102#32, []⟩ = .illegal .argNotZero ∧
  decode ⟨0x00000003#32, [0x00#8]⟩ = .illegal .payloadNotEmpty

/-- R56: the status codes, and no two statuses share one. -/
def Obligations.StatusCodesAreThoseOfR56 : Prop :=
  Status.ok.code = 0x00#8 ∧ (Status.error .invalidArgument).code = 0x01#8 ∧
  (Status.error .stateError).code = 0x02#8 ∧ (Status.error .cipherError).code = 0x03#8 ∧
  (Status.error .illegalCommand).code = 0x04#8 ∧ ∀ a b : Status, a.code = b.code → a = b

/-- R61, R62: the lines of a script stand for the words R61 shows, and MAC stands for its three commands in order. A tag
outside 0..255 is rejected; the range 1..16 is left to the core. -/
def Obligations.ScriptLinesStandForTheirCommands : Prop :=
  ∀ (tag : Nat) (key msg : Bytes) (w : CommandWord),
    (tag < 256 →
      (ScriptLine.new tag key).commands = some [⟨BitVec.ofNat 32 (256 * tag + 1), key⟩] ∧
      (ScriptLine.mac tag key msg).commands =
        some [⟨BitVec.ofNat 32 (256 * tag + 1), key⟩, ⟨0x00000002#32, msg⟩, ⟨0x00000003#32, []⟩]) ∧
    (¬ tag < 256 → (ScriptLine.new tag key).commands = none ∧ (ScriptLine.mac tag key msg).commands = none) ∧
    (ScriptLine.update msg).commands = some [⟨0x00000002#32, msg⟩] ∧
    ScriptLine.finalize.commands = some [⟨0x00000003#32, []⟩] ∧
    (ScriptLine.raw w msg).commands = some [⟨w, msg⟩]

/-! ### Blocks -/

/-- R7: the sixteen bytes of a block are its value in base 256, byte 0 the most significant, and `val` and `blk` are
inverse to each other. R7 marks the byte order as general knowledge and as the spec's own decision D3 (log 10). -/
def Obligations.BlockBytesAreBigEndian : Prop :=
  (∀ bs : Bytes, bs.length = 16 →
    (Block.ofBytes bs).toNat = ((List.range 16).map fun i => (bs.getD i 0).toNat * 2 ^ (8 * (15 - i))).sum ∧
    Block.toBytes (Block.ofBytes bs) = bs) ∧
  ∀ B : Block, (Block.toBytes B).length = 16 ∧ Block.ofBytes (Block.toBytes B) = B

/-- R70: DoubleGF bit by bit. Every bit moves up by one, and the dropped bit 127 comes back into bits 7, 2, 1 and
0. That the other bytes of the constant are zero, and which end of a block is the most significant, are the spec's own
decisions D28 and D3 (log 10). -/
def Obligations.DoubleGFMovesBitsAndReduces : Prop :=
  ∀ (X : Block) (i : Nat), i < 128 →
    (doubleGF X).getLsbD i =
      ((decide (1 ≤ i) && X.getLsbD (i - 1)) ^^ (X.getLsbD 127 && decide (i ∈ [0, 1, 2, 7])))

/-- R71: the form with no branch on data has the same result as R70 for every block. -/
def Obligations.BranchFreeDoublingAgrees : Prop :=
  ∀ X : Block, doubleGFBranchFree X = doubleGF X

/-- DoubleGF is linear over GF(2) and loses no block (R70: multiplication by x). -/
def Obligations.DoublingIsLinearAndInjective : Prop :=
  (∀ X Y : Block, doubleGF (X ^^^ Y) = doubleGF X ^^^ doubleGF Y) ∧
  ∀ X Y : Block, doubleGF X = doubleGF Y → X = Y

/-- R90: padding fills a block, starts with the message bytes and a single 0x80, and two different partial blocks never
pad to the same one. -/
def Obligations.PaddingFillsAndSeparates : Prop :=
  (∀ B : Bytes, B.length ≤ 15 → (pad B).length = 16 ∧ (pad B).take B.length = B ∧
    (pad B)[B.length]? = some 0x80#8 ∧ ∀ i, B.length < i → i < 16 → (pad B)[i]? = some 0x00#8) ∧
  ∀ A B : Bytes, A.length ≤ 15 → B.length ≤ 15 → pad A = pad B → A = B

/-! ### Steps -/

/-- R100: a step on a presented command that decodes to an instruction is that instruction, with the command taken
from the host's stream. -/
def Obligations.StepRunsTheDecodedInstruction : Prop :=
  ∀ (s : State) (c : Command) (es : List HostEvent) (i : Instr),
    s.inbox = .command c :: es → decode c = .instr i → step s = exec i { s with inbox := es }

/-- R36: commands presented one after the other run in that order, each from the state the one before it left. -/
def Obligations.PresentedCommandsRunInOrder : Prop :=
  ∀ (is : List Instr) (es : List HostEvent) (s : State), (∀ i ∈ is, i.wf = true) →
    s.inbox = is.map (fun i => HostEvent.command (encode i)) ++ es →
    Host.Core.run Sys2Proof.core is.length s = runInstrs is { s with inbox := es }

/-- R10, R36, R37: a step only adds to the two observations, a presented command adds exactly one response, and the
transaction count goes with the trace. -/
def Obligations.ObservationsOnlyGrow : Prop :=
  ∀ s t : State, step s = .next t →
    ∃ (rs : List Response) (es : List PortTxn), t.responses = s.responses ++ rs ∧ t.portTrace = s.portTrace ++ es ∧
      t.portCount = s.portCount + es.length ∧ t.portPlan = s.portPlan.drop es.length ∧ t.inbox = s.inbox.drop 1 ∧
      ((∃ c, s.inbox.head? = some (.command c)) → rs.length = 1) ∧
      (¬ (∃ c, s.inbox.head? = some (.command c)) → rs = [])

/-- With no event presented the core waits, unchanged. This is the model's own choice (log 4). -/
def Obligations.CoreWaitsWithoutACommand : Prop :=
  ∀ s : State, s.inbox = [] → step s = .next s

/-- R134: a run in which a second command is presented before the response to the first is refused. -/
def Obligations.OverlappingCommandsAreRefused : Prop :=
  ∀ (s : State) (a b : Command) (es : List HostEvent), s.inbox = .overlap a b :: es →
    step s = .refused .overlappingCommands

/-- R131: a reset that abandons a command leaves the reset state and returns no response. The requests that stay in the
port trace are the first ones of the transactions the command makes when it is not abandoned: what the trace keeps is the model's own choice (log 6). -/
def Obligations.ResetAbandonsACommand : Prop :=
  ∀ (s : State) (c : Command) (n : Nat) (es : List HostEvent), s.inbox = .commandCutByReset c n :: es →
    ∃ (t : State) (txns : List PortTxn), step s = .next t ∧ State.reset.sameRegisters t ∧ t.responses = s.responses ∧
      t.inbox = es ∧ t.portTrace = s.portTrace ++ txns ∧ txns.length ≤ n ∧ (∀ e ∈ txns, e.key = s.keyBytes) ∧
      ∀ u : State, runCommand c { s with inbox := es } = .next u →
        txns = (u.portTrace.drop s.portTrace.length).take n

/-! ### NEW -/

/-- R101: NEW with a key of 16 or 32 bytes and a tag size of 1 to 16 builds a new instance from any state: every register
has the value given, nothing else changes but the response; with any other arguments it returns InvalidArgument and
writes no register. The encoding is `0x0000_tt01`. -/
def Obligations.NewBuildsAnInstanceOrChangesNothing : Prop :=
  ∀ (t : Nat) (P : Bytes) (s : State),
    ((P.length = 16 ∨ P.length = 32) → 1 ≤ t → t ≤ 16 →
      exec (.new t P) s = .next { s with
        seq := .ready
        key := keyRegister P
        keylen := Fin.ofNat 64 P.length
        tagsize := Fin.ofNat 32 t
        cv := 0#128
        buf := []
        skvalid := false
        k1 := 0#128
        k2 := 0#128
        responses := s.responses ++ [⟨.ok, []⟩] } ∧
      (keyRegister P).toList = P ++ zeroBytes (32 - P.length) ∧ (Fin.ofNat 64 P.length).val = P.length ∧
      (Fin.ofNat 32 t).val = t) ∧
    (¬ ((P.length = 16 ∨ P.length = 32) ∧ 1 ≤ t ∧ t ≤ 16) →
      exec (.new t P) s = .next { s with responses := s.responses ++ [⟨.error .invalidArgument, []⟩] }) ∧
    (t < 256 → encode (.new t P) = ⟨BitVec.ofNat 32 (256 * t + 1), P⟩)

/-! ### UPDATE -/

/-- R113: UPDATE and FINALIZE with no instance in progress return StateError, write no register and make no port
transaction, whatever the port would do. -/
def Obligations.NoInstanceGivesStateError : Prop :=
  ∀ s : State, (s.seq = .idle ∨ s.seq = .finalized) →
    (∀ P : Bytes, exec (.update P) s = .next { s with responses := s.responses ++ [⟨.error .stateError, []⟩] }) ∧
    exec .finalize s = .next { s with responses := s.responses ++ [⟨.error .stateError, []⟩] }

/-- R102, R81, R80: UPDATE in READY with no port failure completes with OK. It chains `ceil((b + p) / 16) − 1` blocks of
the buffered bytes and the payload, sends exactly the chain's requests, leaves the other bytes buffered, and
changes nothing else but the response and the port's draws that it used. -/
def Obligations.UpdateChainsAllButTheLastBlock : Prop :=
  ∀ (P : Bytes) (s : State) (n : Nat), s.seq = .ready → s.buf.length ≤ 16 →
    n = (s.buf.length + P.length + 15) / 16 - 1 → s.portAnswers n →
    exec (.update P) s = .next { s with
      cv := chainFrom Config.encrypt s.keyBytes s.cv (s.buf ++ P) n
      buf := (s.buf ++ P).drop (16 * n)
      portTrace := s.portTrace ++ chainTxns Config.encrypt s.keyBytes s.cv (s.buf ++ P) n
      portPlan := s.portPlan.drop n
      portCount := s.portCount + n
      responses := s.responses ++ [⟨.ok, []⟩] }

/-- R80: one chaining step on a full buffer sends exactly `CV ⊕ BUF`. Answered, it leaves the answer in CV and an empty
buffer; failed, it raises CipherError before CV or BUF is written. -/
def Obligations.ProcessBlockSendsTheXor : Prop :=
  ∀ (enc : Cipher) (s : State), s.buf.length = 16 →
    (s.fateAt 0 = .answers → processBlock enc s = .done () { s with
      cv := enc s.keyBytes (s.cv ^^^ Block.ofBytes s.buf)
      buf := []
      portTrace := s.portTrace ++ [⟨s.keyBytes, s.cv ^^^ Block.ofBytes s.buf,
        .ok (enc s.keyBytes (s.cv ^^^ Block.ofBytes s.buf))⟩]
      portPlan := s.portPlan.drop 1
      portCount := s.portCount + 1 }) ∧
    (s.fateAt 0 = .fails → processBlock enc s = .raised { s with
      portTrace := s.portTrace ++ [⟨s.keyBytes, s.cv ^^^ Block.ofBytes s.buf, .fail⟩]
      portPlan := s.portPlan.drop 1
      portCount := s.portCount + 1 })

/-- R102: a zero-length UPDATE in READY returns OK and changes nothing, whatever is buffered. -/
def Obligations.EmptyUpdateChangesNothing : Prop :=
  ∀ s : State, s.seq = .ready → exec (.update []) s = .next { s with responses := s.responses ++ [⟨.ok, []⟩] }

/-- R84: how many port transactions an UPDATE makes and how many bytes it leaves buffered, and that the updates of a whole
message make `max(0, ceil(N / 16) − 1)` in total, however the message is split. -/
def Obligations.UpdateTransactionCount : Prop :=
  (∀ (P : Bytes) (s : State), s.seq = .ready → s.buf.length ≤ 16 →
    s.portAnswers ((s.buf.length + P.length + 15) / 16 - 1) →
    ∃ t, exec (.update P) s = .next t ∧
      t.portTrace.length = s.portTrace.length + ((s.buf.length + P.length + 15) / 16 - 1) ∧
      t.buflen = s.buf.length + P.length - 16 * ((s.buf.length + P.length + 15) / 16 - 1)) ∧
  ∀ (parts : List Bytes) (s : State), s.seq = .ready → s.buf = [] →
    s.portAnswers ((parts.flatten.length + 15) / 16 - 1) →
    ∃ t, runInstrs (parts.map Instr.update) s = .next t ∧
      t.portTrace.length = s.portTrace.length + ((parts.flatten.length + 15) / 16 - 1)

/-- R102, R116: an UPDATE whose port answers `j` transactions and fails the next ends the instance: FINALIZED, every data
register zero, CipherError with no result, the failed request logged, and nothing sent after it. -/
def Obligations.UpdatePortFailureEndsTheInstance : Prop :=
  ∀ (P : Bytes) (s : State) (j : Nat), s.seq = .ready → s.buf.length ≤ 16 →
    j < (s.buf.length + P.length + 15) / 16 - 1 → s.portAnswers j → s.fateAt j = .fails →
    exec (.update P) s = .next { s with
      seq := .finalized
      key := Vector.replicate 32 0
      keylen := 0
      tagsize := 0
      cv := 0#128
      buf := []
      skvalid := false
      k1 := 0#128
      k2 := 0#128
      portTrace := s.portTrace ++ chainTxns Config.encrypt s.keyBytes s.cv (s.buf ++ P) j ++
        [⟨s.keyBytes, chainRequest Config.encrypt s.keyBytes s.cv (s.buf ++ P) j, .fail⟩]
      portPlan := s.portPlan.drop (j + 1)
      portCount := s.portCount + (j + 1)
      responses := s.responses ++ [⟨.error .cipherError, []⟩] }

/-- R137: a command whose port transaction is never answered never completes: it is neither a success nor a failure. -/
def Obligations.UnansweredTransactionHangs : Prop :=
  (∀ (P : Bytes) (s : State) (j : Nat), s.seq = .ready → s.buf.length ≤ 16 →
    j < (s.buf.length + P.length + 15) / 16 - 1 → s.portAnswers j → s.fateAt j = .silent →
    exec (.update P) s = .fault .portNeverAnswers) ∧
  ∀ s : State, s.seq = .ready → (s.fateAt 0 = .silent ∨
      (s.skvalid = false ∧ s.fateAt 0 = .answers ∧ s.fateAt 1 = .silent)) →
    exec .finalize s = .fault .portNeverAnswers

/-- What UPDATE leaves alone in every state in which it answers: the sequencer state, the key, the tag size and the
subkeys after an OK; every register after a StateError; and the host's coming events always. After a CipherError every
data register is zero. What it adds to the observations is one response and its own transactions. -/
def Obligations.UpdateFrame : Prop :=
  ∀ (P : Bytes) (s t : State), exec (.update P) s = .next t →
    t.inbox = s.inbox ∧ s.responses <+: t.responses ∧ s.portTrace <+: t.portTrace ∧
    ((t.responses = s.responses ++ [⟨.ok, []⟩] ∧ s.seq = .ready ∧ t.seq = .ready ∧ t.key = s.key ∧
        t.keylen = s.keylen ∧ t.tagsize = s.tagsize ∧ t.skvalid = s.skvalid ∧ t.k1 = s.k1 ∧ t.k2 = s.k2) ∨
      (t.responses = s.responses ++ [⟨.error .stateError, []⟩] ∧ s.sameRegisters t ∧ t.portTrace = s.portTrace ∧
        t.portPlan = s.portPlan ∧ t.portCount = s.portCount) ∨
      (t.responses = s.responses ++ [⟨.error .cipherError, []⟩] ∧ s.seq = .ready ∧ t.seq = .finalized ∧
        t.zeroed = true))

/-- R82: UPDATE with the byte-serial Absorb of R81 is UPDATE with the source's formulation: the same next state, port
transactions and their order included, the same CipherError, and the same hang, for every cipher. -/
def Obligations.AbsorbAgreesWithTheSourceWording : Prop :=
  ∀ (enc : Cipher) (P : Bytes) (s : State), s.buf.length ≤ 16 → updateWith enc P s = updateSourceWith enc P s

/-- R22, R31, R83, R85: what the registers say of the message. NEW starts the empty message; an UPDATE that meets no port
failure extends the message by its payload, with the last block deferred: after it 1 to 16 bytes are buffered if the
message has any, and none if it has none. -/
def Obligations.UpdateExtendsTheMessage : Prop :=
  (∀ (t : Nat) (P : Bytes) (s : State), (P.length = 16 ∨ P.length = 32) → 1 ≤ t → t ≤ 16 →
    ∃ u, exec (.new t P) s = .next u ∧ u.Absorbed Config.encrypt [] ∧ u.keyBytes = P) ∧
  ∀ (M P : Bytes) (s : State), s.Absorbed Config.encrypt M →
    s.portAnswers ((M.length + P.length + 15) / 16 - 1 - ((M.length + 15) / 16 - 1)) →
    ∃ u, exec (.update P) s = .next u ∧ u.Absorbed Config.encrypt (M ++ P) ∧ u.keyBytes = s.keyBytes ∧
      (M ++ P ≠ [] → 1 ≤ u.buflen ∧ u.buflen ≤ 16) ∧ (M ++ P = [] → u.buflen = 0)

/-! ### FINALIZE -/

/-- R72: DeriveSubkeys makes one transaction with the zero block. Answered with `L`, it writes `K1 = DoubleGF(L)`,
`K2 = DoubleGF(K1)` and SKVALID; failed, it raises CipherError and writes none of the three. -/
def Obligations.DerivationWritesBothSubkeysOrNone : Prop :=
  ∀ (enc : Cipher) (s : State) (L : Block), L = enc s.keyBytes 0#128 →
    (s.fateAt 0 = .answers → deriveSubkeys enc s = .done () { s with
      k1 := doubleGF L
      k2 := doubleGF (doubleGF L)
      skvalid := true
      portTrace := s.portTrace ++ [⟨s.keyBytes, 0#128, .ok L⟩]
      portPlan := s.portPlan.drop 1
      portCount := s.portCount + 1 }) ∧
    (s.fateAt 0 = .fails → deriveSubkeys enc s = .raised { s with
      portTrace := s.portTrace ++ [⟨s.keyBytes, 0#128, .fail⟩]
      portPlan := s.portPlan.drop 1
      portCount := s.portCount + 1 })

/-- R103, R94, R72, R91, R92, R93: FINALIZE in READY with the subkeys not yet derived and no port failure completes with the tag: two transactions, the zero block first, and every data register zero after.
With subkeys already there it makes the second transaction alone. -/
def Obligations.FinalizeReturnsTheTag : Prop :=
  ∀ (s : State) (L K1 K2 Mlast T : Block), s.seq = .ready →
    (if s.skvalid = true then K1 = s.k1 ∧ K2 = s.k2
      else L = Config.encrypt s.keyBytes 0#128 ∧ K1 = doubleGF L ∧ K2 = doubleGF K1) →
    Mlast = (if s.buf.length = 16 then Block.ofBytes s.buf ^^^ K1 else Block.ofBytes (pad s.buf) ^^^ K2) →
    T = Config.encrypt s.keyBytes (Mlast ^^^ s.cv) →
    s.portAnswers (if s.skvalid = true then 1 else 2) →
    exec .finalize s = .next { s with
      seq := .finalized
      key := Vector.replicate 32 0
      keylen := 0
      tagsize := 0
      cv := 0#128
      buf := []
      skvalid := false
      k1 := 0#128
      k2 := 0#128
      portTrace := s.portTrace ++ (if s.skvalid = true then [] else [⟨s.keyBytes, 0#128, .ok L⟩]) ++
        [⟨s.keyBytes, Mlast ^^^ s.cv, .ok T⟩]
      portPlan := s.portPlan.drop (if s.skvalid = true then 1 else 2)
      portCount := s.portCount + (if s.skvalid = true then 1 else 2)
      responses := s.responses ++ [⟨.ok, (Block.toBytes T).take s.tagsize.val⟩] }

/-- R72, R92, R103, R116, R117: FINALIZE in READY when the derivation fails makes one transaction, and when the final call
fails makes two, the zero block first; with subkeys already there a failing final call is its only one. Each time it
returns CipherError with no result, and the instance is over and forgotten. -/
def Obligations.FinalizePortFailureReturnsNoTag : Prop :=
  ∀ (s : State) (L K1 K2 Mlast : Block), s.seq = .ready →
    (if s.skvalid = true then K1 = s.k1 ∧ K2 = s.k2
      else L = Config.encrypt s.keyBytes 0#128 ∧ K1 = doubleGF L ∧ K2 = doubleGF K1) →
    Mlast = (if s.buf.length = 16 then Block.ofBytes s.buf ^^^ K1 else Block.ofBytes (pad s.buf) ^^^ K2) →
    ∀ txns : List PortTxn,
      ((s.skvalid = false ∧ s.fateAt 0 = .fails ∧ txns = [⟨s.keyBytes, 0#128, .fail⟩]) ∨
        (s.skvalid = false ∧ s.fateAt 0 = .answers ∧ s.fateAt 1 = .fails ∧
          txns = [⟨s.keyBytes, 0#128, .ok L⟩, ⟨s.keyBytes, Mlast ^^^ s.cv, .fail⟩]) ∨
        (s.skvalid = true ∧ s.fateAt 0 = .fails ∧ txns = [⟨s.keyBytes, Mlast ^^^ s.cv, .fail⟩])) →
      ∃ t, exec .finalize s = .next t ∧ t.seq = .finalized ∧ t.zeroed = true ∧ t.inbox = s.inbox ∧
        t.responses = s.responses ++ [⟨.error .cipherError, []⟩] ∧ t.portTrace = s.portTrace ++ txns ∧
        t.portPlan = s.portPlan.drop txns.length ∧ t.portCount = s.portCount + txns.length

/-- What FINALIZE leaves alone in every state in which it answers, and what it clears: outside READY no register changes;
in READY the instance ends and every data register is zero. The host's coming events never change, and the observations
only grow. -/
def Obligations.FinalizeFrame : Prop :=
  ∀ s t : State, exec .finalize s = .next t →
    t.inbox = s.inbox ∧ s.responses <+: t.responses ∧ s.portTrace <+: t.portTrace ∧
    (s.seq ≠ .ready → s.sameRegisters t ∧ t.portTrace = s.portTrace ∧ t.portPlan = s.portPlan ∧
      t.portCount = s.portCount ∧ t.responses = s.responses ++ [⟨.error .stateError, []⟩]) ∧
    (s.seq = .ready → t.seq = .finalized ∧ t.zeroed = true)

/-- R93: for the same key and message, the tag for size `t` is the first `t` bytes of the tag for size 16, and FINALIZE
makes the same port transactions for both. -/
def Obligations.TagsTruncateConsistently : Prop :=
  ∀ (s : State) (t : Fin 32), s.seq = .ready → t.val ≤ 16 → s.portAnswers 2 →
    ∃ (u v : State) (tag : Bytes), exec .finalize { s with tagsize := 16 } = .next u ∧
      exec .finalize { s with tagsize := t } = .next v ∧ tag.length = 16 ∧
      u.responses = s.responses ++ [⟨.ok, tag⟩] ∧ v.responses = s.responses ++ [⟨.ok, tag.take t.val⟩] ∧
      u.portTrace = v.portTrace

/-! ### Whole instances -/

/-- R96: NEW, any updates, FINALIZE with no port failure return the CMAC of the concatenated message under the key,
truncated to the tag size, from any state and for every partition of the message. -/
def Obligations.InstanceComputesCmac : Prop :=
  ∀ (t : Nat) (k : Bytes) (parts : List Bytes) (s : State), (k.length = 16 ∨ k.length = 32) → 1 ≤ t → t ≤ 16 →
    s.portAnswers (cmacBlockCount parts.flatten + 1) →
    ∃ u, runInstrs (.new t k :: (parts.map Instr.update ++ [.finalize])) s = .next u ∧
      u.responses = s.responses ++ List.replicate (parts.length + 1) ⟨.ok, []⟩ ++
        [⟨.ok, cmacTag Config.encrypt k t parts.flatten⟩] ∧
      (cmacTag Config.encrypt k t parts.flatten).length = t ∧
      u.portTrace = s.portTrace ++ cmacTxns Config.encrypt k parts.flatten ∧
      u.seq = .finalized ∧ u.zeroed = true

/-- R105: two partitions of one message give the same tag and the same port transactions. -/
def Obligations.SplittingDoesNotMatter : Prop :=
  ∀ (t : Nat) (k : Bytes) (parts parts' : List Bytes) (s : State), (k.length = 16 ∨ k.length = 32) → 1 ≤ t → t ≤ 16 →
    parts.flatten = parts'.flatten → s.portAnswers (cmacBlockCount parts.flatten + 1) →
    ∃ (u v : State) (tag : Bytes),
      runInstrs (.new t k :: (parts.map Instr.update ++ [.finalize])) s = .next u ∧
      runInstrs (.new t k :: (parts'.map Instr.update ++ [.finalize])) s = .next v ∧
      u.responses.getLast? = some ⟨.ok, tag⟩ ∧ v.responses.getLast? = some ⟨.ok, tag⟩ ∧ tag.length = t ∧
      u.portTrace = v.portTrace

/-- R95: an instance with no UPDATE, or with only zero-length ones, takes the padding branch: the block sent is
`(80 00 … 00) ⊕ K2`. -/
def Obligations.EmptyMessageTakesThePaddingBranch : Prop :=
  ∀ (t n : Nat) (k : Bytes) (s : State), (k.length = 16 ∨ k.length = 32) → 1 ≤ t → t ≤ 16 → s.portAnswers 2 →
    ∃ u, runInstrs (.new t k :: (List.replicate n (.update []) ++ [.finalize])) s = .next u ∧
      u.responses.getLast? = some ⟨.ok, (Block.toBytes (Config.encrypt k
        (0x80000000000000000000000000000000#128 ^^^ doubleGF (doubleGF (Config.encrypt k 0#128))))).take t⟩

/-- R106 (c), R132, R135: with no instance in progress, until a valid NEW every UPDATE and FINALIZE returns StateError, and
every register stays as it is. -/
def Obligations.NothingWorksUntilAValidNew : Prop :=
  ∀ (is : List Instr) (s : State), s.seq ≠ .ready → (∀ i ∈ is, startsInstance i = false) →
    ∃ u, runInstrs is s = .next u ∧ s.sameRegisters u ∧ u.portTrace = s.portTrace ∧
      u.responses = s.responses ++ is.map noInstanceResponse

/-! ### Rules about every command -/

/-- R104: the transition table. From a state of the invariant every command answers exactly the row that its decoding, the
sequencer state, its arguments and the port select, or never completes because the port never answers. -/
def Obligations.TransitionTable : Prop :=
  ∀ (c : Command) (s : State), s.Inv →
    (runCommand c s = .fault .portNeverAnswers ∧ s.seq = .ready ∧ ∃ j, s.fateAt j = .silent) ∨
    ∃ (t : State) (st : Status) (res : Bytes) (n : Nat), runCommand c s = .next t ∧
      t.responses = s.responses ++ [⟨st, res⟩] ∧ t.portTrace.length = s.portTrace.length + n ∧
      match decode c with
      | .illegal _ => st = .error .illegalCommand ∧ res = [] ∧ n = 0 ∧ s.sameRegisters t
      | .instr (.new size key) =>
        n = 0 ∧ res = [] ∧
        if (key.length = 16 ∨ key.length = 32) ∧ 1 ≤ size ∧ size ≤ 16 then
          st = .ok ∧ t.seq = .ready ∧ t.keyBytes = key ∧ t.tagsize.val = size ∧ t.cv = 0#128 ∧ t.buf = [] ∧
            t.skvalid = false ∧ t.k1 = 0#128 ∧ t.k2 = 0#128
        else st = .error .invalidArgument ∧ s.sameRegisters t
      | .instr (.update P) =>
        res = [] ∧
        if s.seq = .ready then
          (st = .ok ∧ t.seq = .ready ∧ s.portAnswers n ∧ n = absorbTxnCount s.buflen P.length) ∨
          (st = .error .cipherError ∧ t.seq = .finalized ∧ t.zeroed = true ∧ 1 ≤ n ∧
            n ≤ absorbTxnCount s.buflen P.length ∧ s.portAnswers (n - 1) ∧ s.fateAt (n - 1) = .fails)
        else st = .error .stateError ∧ n = 0 ∧ s.sameRegisters t
      | .instr .finalize =>
        if s.seq = .ready then
          t.seq = .finalized ∧ t.zeroed = true ∧
          ((st = .ok ∧ res.length = s.tagsize.val ∧ n = 2 ∧ s.portAnswers 2) ∨
            (st = .error .cipherError ∧ res = [] ∧ n = 1 ∧ s.fateAt 0 = .fails) ∨
            (st = .error .cipherError ∧ res = [] ∧ n = 2 ∧ s.fateAt 0 = .answers ∧ s.fateAt 1 = .fails))
        else st = .error .stateError ∧ res = [] ∧ n = 0 ∧ s.sameRegisters t

/-- R24: whenever a step brings SEQ to FINALIZED, every data register holds zero after it, whatever it held before. -/
def Obligations.FinalizedMeansZeroized : Prop :=
  ∀ s t : State, step s = .next t → s.seq ≠ .finalized → t.seq = .finalized →
    t.key = Vector.replicate 32 0#8 ∧ t.keylen.val = 0 ∧ t.tagsize.val = 0 ∧ t.cv = 0#128 ∧ t.buf = [] ∧
      t.skvalid = false ∧ t.k1 = 0#128 ∧ t.k2 = 0#128

/-- R23: the events that set and clear the LifecycleFlag. Only a successful FINALIZE and a CipherError set it, only a
successful NEW and a reset clear it, and each of them does. -/
def Obligations.LifecycleFlagEvents : Prop :=
  ∀ (s t : State) (e : HostEvent) (es : List HostEvent), s.inbox = e :: es → step s = .next t →
    (t.lifecycleFlag = true ↔
      ((∃ r, t.responses = s.responses ++ [r] ∧ (r.status = .error .cipherError ∨
          (r.status = .ok ∧ ∃ c, e = .command c ∧ decode c = .instr .finalize))) ∨
        (s.lifecycleFlag = true ∧ e ≠ .reset ∧ (∀ c n, e ≠ .commandCutByReset c n) ∧
          ¬ ∃ c size key, e = .command c ∧ decode c = .instr (.new size key) ∧
            t.responses = s.responses ++ [⟨.ok, []⟩])))

/-- R18: while READY lasts and no valid NEW is run, no instruction changes the key, its length or the tag size, and while
SKVALID is 1 none changes the subkeys. -/
def Obligations.InstanceParametersAreImmutable : Prop :=
  ∀ (i : Instr) (s t : State), exec i s = .next t → s.seq = .ready → t.seq = .ready → startsInstance i = false →
    t.key = s.key ∧ t.keylen = s.keylen ∧ t.tagsize = s.tagsize ∧
      (s.skvalid = true → t.skvalid = true ∧ t.k1 = s.k1 ∧ t.k2 = s.k2)

/-- R57, R117: a FINALIZE that returns OK returns exactly TAGSIZE bytes; every other response, every error among them, has
an empty result. -/
def Obligations.OnlyAFinishedFinalizeReturnsBytes : Prop :=
  ∀ (c : Command) (s t : State), s.Inv → runCommand c s = .next t →
    ∃ r : Response, t.responses = s.responses ++ [r] ∧
      (decode c = .instr .finalize → r.status = .ok → r.result.length = s.tagsize.val) ∧
      (¬ (decode c = .instr .finalize ∧ r.status = .ok) → r.result = [])

/-- R13, R34, R58: every port request of a command carries the whole key `KEY[0..KEYLEN)` of the instance, 16 or 32
bytes. -/
def Obligations.EveryRequestCarriesTheKey : Prop :=
  ∀ (c : Command) (s t : State), s.Inv → runCommand c s = .next t →
    ∀ e ∈ t.portTrace.drop s.portTrace.length,
      e.key = s.keyBytes ∧ e.key.length = s.keylen.val ∧ (e.key.length = 16 ∨ e.key.length = 32)

/-- R115: which check wins. An illegal command is IllegalCommand in every state; an UPDATE or FINALIZE with no instance is
StateError even where the port would fail; a NEW with bad arguments is InvalidArgument in every state. -/
def Obligations.ErrorPriority : Prop :=
  ∀ (c : Command) (s : State),
    ((∃ why, decode c = .illegal why) →
      runCommand c s = .next { s with responses := s.responses ++ [⟨.error .illegalCommand, []⟩] }) ∧
    (((∃ P, decode c = .instr (.update P)) ∨ decode c = .instr .finalize) → s.seq ≠ .ready →
      runCommand c s = .next { s with responses := s.responses ++ [⟨.error .stateError, []⟩] }) ∧
    (∀ size key, decode c = .instr (.new size key) → ¬ ((key.length = 16 ∨ key.length = 32) ∧ 1 ≤ size ∧ size ≤ 16) →
      runCommand c s = .next { s with responses := s.responses ++ [⟨.error .invalidArgument, []⟩] })

/-- R138: for a command and a buffer length, how many port requests are made, and which status and how many result bytes are
returned, depend on lengths only: two runs that differ in key, message and subkey bytes alone agree in all of them, and
they hang together. -/
def Obligations.RequestsDependOnLengthsOnly : Prop :=
  ∀ (i j : Instr) (s t : State), sameLengths i j → s.publiclyEqual t →
    (exec i s = .fault .portNeverAnswers ∧ exec j t = .fault .portNeverAnswers) ∨
    ∃ (s' t' : State) (es fs : List PortTxn) (r q : Response), exec i s = .next s' ∧ exec j t = .next t' ∧
      s'.publiclyEqual t' ∧ s'.portTrace = s.portTrace ++ es ∧ t'.portTrace = t.portTrace ++ fs ∧
      es.length = fs.length ∧ s'.responses = s.responses ++ [r] ∧ t'.responses = t.responses ++ [q] ∧
      r.status = q.status ∧ r.result.length = q.result.length
end

