-- ==== Sys2Proof/Laws/State.lean ====
section
/-! SUPPORT. What each update of the state does to each of its fields, so that no proof unfolds a record. -/

namespace Sys2Proof.Machine

variable (s : State)

/-! `State.respond` -/

@[simp] theorem State.respond_seq (st : Status) (r : Bytes) : (s.respond st r).seq = s.seq := rfl
@[simp] theorem State.respond_key (st : Status) (r : Bytes) : (s.respond st r).key = s.key := rfl
@[simp] theorem State.respond_keylen (st : Status) (r : Bytes) : (s.respond st r).keylen = s.keylen := rfl
@[simp] theorem State.respond_tagsize (st : Status) (r : Bytes) : (s.respond st r).tagsize = s.tagsize := rfl
@[simp] theorem State.respond_cv (st : Status) (r : Bytes) : (s.respond st r).cv = s.cv := rfl
@[simp] theorem State.respond_buf (st : Status) (r : Bytes) : (s.respond st r).buf = s.buf := rfl
@[simp] theorem State.respond_skvalid (st : Status) (r : Bytes) : (s.respond st r).skvalid = s.skvalid := rfl
@[simp] theorem State.respond_k1 (st : Status) (r : Bytes) : (s.respond st r).k1 = s.k1 := rfl
@[simp] theorem State.respond_k2 (st : Status) (r : Bytes) : (s.respond st r).k2 = s.k2 := rfl
@[simp] theorem State.respond_inbox (st : Status) (r : Bytes) : (s.respond st r).inbox = s.inbox := rfl
@[simp] theorem State.respond_responses (st : Status) (r : Bytes) : (s.respond st r).responses = s.responses ++ [⟨st, r⟩] := rfl
@[simp] theorem State.respond_portTrace (st : Status) (r : Bytes) : (s.respond st r).portTrace = s.portTrace := rfl
@[simp] theorem State.respond_portPlan (st : Status) (r : Bytes) : (s.respond st r).portPlan = s.portPlan := rfl
@[simp] theorem State.respond_portCount (st : Status) (r : Bytes) : (s.respond st r).portCount = s.portCount := rfl

/-! `State.zeroize` -/

@[simp] theorem State.zeroize_seq : s.zeroize.seq = s.seq := rfl
@[simp] theorem State.zeroize_key : s.zeroize.key = Vector.replicate 32 0 := rfl
@[simp] theorem State.zeroize_keylen : s.zeroize.keylen = 0 := rfl
@[simp] theorem State.zeroize_tagsize : s.zeroize.tagsize = 0 := rfl
@[simp] theorem State.zeroize_cv : s.zeroize.cv = 0#128 := rfl
@[simp] theorem State.zeroize_buf : s.zeroize.buf = [] := rfl
@[simp] theorem State.zeroize_skvalid : s.zeroize.skvalid = false := rfl
@[simp] theorem State.zeroize_k1 : s.zeroize.k1 = 0#128 := rfl
@[simp] theorem State.zeroize_k2 : s.zeroize.k2 = 0#128 := rfl
@[simp] theorem State.zeroize_inbox : s.zeroize.inbox = s.inbox := rfl
@[simp] theorem State.zeroize_responses : s.zeroize.responses = s.responses := rfl
@[simp] theorem State.zeroize_portTrace : s.zeroize.portTrace = s.portTrace := rfl
@[simp] theorem State.zeroize_portPlan : s.zeroize.portPlan = s.portPlan := rfl
@[simp] theorem State.zeroize_portCount : s.zeroize.portCount = s.portCount := rfl

/-! `State.terminate` -/

@[simp] theorem State.terminate_seq : s.terminate.seq = .finalized := rfl
@[simp] theorem State.terminate_key : s.terminate.key = Vector.replicate 32 0 := rfl
@[simp] theorem State.terminate_keylen : s.terminate.keylen = 0 := rfl
@[simp] theorem State.terminate_tagsize : s.terminate.tagsize = 0 := rfl
@[simp] theorem State.terminate_cv : s.terminate.cv = 0#128 := rfl
@[simp] theorem State.terminate_buf : s.terminate.buf = [] := rfl
@[simp] theorem State.terminate_skvalid : s.terminate.skvalid = false := rfl
@[simp] theorem State.terminate_k1 : s.terminate.k1 = 0#128 := rfl
@[simp] theorem State.terminate_k2 : s.terminate.k2 = 0#128 := rfl
@[simp] theorem State.terminate_inbox : s.terminate.inbox = s.inbox := rfl
@[simp] theorem State.terminate_responses : s.terminate.responses = s.responses := rfl
@[simp] theorem State.terminate_portTrace : s.terminate.portTrace = s.portTrace := rfl
@[simp] theorem State.terminate_portPlan : s.terminate.portPlan = s.portPlan := rfl
@[simp] theorem State.terminate_portCount : s.terminate.portCount = s.portCount := rfl

/-! `State.logTxns` -/

@[simp] theorem State.logTxns_seq (es : List PortTxn) : (s.logTxns es).seq = s.seq := rfl
@[simp] theorem State.logTxns_key (es : List PortTxn) : (s.logTxns es).key = s.key := rfl
@[simp] theorem State.logTxns_keylen (es : List PortTxn) : (s.logTxns es).keylen = s.keylen := rfl
@[simp] theorem State.logTxns_tagsize (es : List PortTxn) : (s.logTxns es).tagsize = s.tagsize := rfl
@[simp] theorem State.logTxns_cv (es : List PortTxn) : (s.logTxns es).cv = s.cv := rfl
@[simp] theorem State.logTxns_buf (es : List PortTxn) : (s.logTxns es).buf = s.buf := rfl
@[simp] theorem State.logTxns_skvalid (es : List PortTxn) : (s.logTxns es).skvalid = s.skvalid := rfl
@[simp] theorem State.logTxns_k1 (es : List PortTxn) : (s.logTxns es).k1 = s.k1 := rfl
@[simp] theorem State.logTxns_k2 (es : List PortTxn) : (s.logTxns es).k2 = s.k2 := rfl
@[simp] theorem State.logTxns_inbox (es : List PortTxn) : (s.logTxns es).inbox = s.inbox := rfl
@[simp] theorem State.logTxns_responses (es : List PortTxn) : (s.logTxns es).responses = s.responses := rfl
@[simp] theorem State.logTxns_portTrace (es : List PortTxn) : (s.logTxns es).portTrace = s.portTrace ++ es := rfl
@[simp] theorem State.logTxns_portPlan (es : List PortTxn) : (s.logTxns es).portPlan = s.portPlan.drop es.length := rfl
@[simp] theorem State.logTxns_portCount (es : List PortTxn) : (s.logTxns es).portCount = s.portCount + es.length := rfl

/-! `State.resetInput` -/

@[simp] theorem State.resetInput_seq : s.resetInput.seq = .idle := rfl
@[simp] theorem State.resetInput_key : s.resetInput.key = Vector.replicate 32 0 := rfl
@[simp] theorem State.resetInput_keylen : s.resetInput.keylen = 0 := rfl
@[simp] theorem State.resetInput_tagsize : s.resetInput.tagsize = 0 := rfl
@[simp] theorem State.resetInput_cv : s.resetInput.cv = 0#128 := rfl
@[simp] theorem State.resetInput_buf : s.resetInput.buf = [] := rfl
@[simp] theorem State.resetInput_skvalid : s.resetInput.skvalid = false := rfl
@[simp] theorem State.resetInput_k1 : s.resetInput.k1 = 0#128 := rfl
@[simp] theorem State.resetInput_k2 : s.resetInput.k2 = 0#128 := rfl
@[simp] theorem State.resetInput_inbox : s.resetInput.inbox = s.inbox := rfl
@[simp] theorem State.resetInput_responses : s.resetInput.responses = s.responses := rfl
@[simp] theorem State.resetInput_portTrace : s.resetInput.portTrace = s.portTrace := rfl
@[simp] theorem State.resetInput_portPlan : s.resetInput.portPlan = s.portPlan := rfl
@[simp] theorem State.resetInput_portCount : s.resetInput.portCount = s.portCount := rfl

/-! `State.abandonCommand` -/

@[simp] theorem State.abandonCommand_seq (es : List PortTxn) : (s.abandonCommand es).seq = .idle := rfl
@[simp] theorem State.abandonCommand_key (es : List PortTxn) : (s.abandonCommand es).key = Vector.replicate 32 0 := rfl
@[simp] theorem State.abandonCommand_keylen (es : List PortTxn) : (s.abandonCommand es).keylen = 0 := rfl
@[simp] theorem State.abandonCommand_tagsize (es : List PortTxn) : (s.abandonCommand es).tagsize = 0 := rfl
@[simp] theorem State.abandonCommand_cv (es : List PortTxn) : (s.abandonCommand es).cv = 0#128 := rfl
@[simp] theorem State.abandonCommand_buf (es : List PortTxn) : (s.abandonCommand es).buf = [] := rfl
@[simp] theorem State.abandonCommand_skvalid (es : List PortTxn) : (s.abandonCommand es).skvalid = false := rfl
@[simp] theorem State.abandonCommand_k1 (es : List PortTxn) : (s.abandonCommand es).k1 = 0#128 := rfl
@[simp] theorem State.abandonCommand_k2 (es : List PortTxn) : (s.abandonCommand es).k2 = 0#128 := rfl
@[simp] theorem State.abandonCommand_inbox (es : List PortTxn) : (s.abandonCommand es).inbox = s.inbox := rfl
@[simp] theorem State.abandonCommand_responses (es : List PortTxn) : (s.abandonCommand es).responses = s.responses := rfl
@[simp] theorem State.abandonCommand_portTrace (es : List PortTxn) : (s.abandonCommand es).portTrace = s.portTrace ++ es := rfl
@[simp] theorem State.abandonCommand_portPlan (es : List PortTxn) : (s.abandonCommand es).portPlan = s.portPlan.drop es.length := rfl
@[simp] theorem State.abandonCommand_portCount (es : List PortTxn) : (s.abandonCommand es).portCount = s.portCount + es.length := rfl

/-! `State.setSubkeys` -/

@[simp] theorem State.setSubkeys_seq (L : Block) : (s.setSubkeys L).seq = s.seq := rfl
@[simp] theorem State.setSubkeys_key (L : Block) : (s.setSubkeys L).key = s.key := rfl
@[simp] theorem State.setSubkeys_keylen (L : Block) : (s.setSubkeys L).keylen = s.keylen := rfl
@[simp] theorem State.setSubkeys_tagsize (L : Block) : (s.setSubkeys L).tagsize = s.tagsize := rfl
@[simp] theorem State.setSubkeys_cv (L : Block) : (s.setSubkeys L).cv = s.cv := rfl
@[simp] theorem State.setSubkeys_buf (L : Block) : (s.setSubkeys L).buf = s.buf := rfl
@[simp] theorem State.setSubkeys_skvalid (L : Block) : (s.setSubkeys L).skvalid = true := rfl
@[simp] theorem State.setSubkeys_k1 (L : Block) : (s.setSubkeys L).k1 = doubleGF L := rfl
@[simp] theorem State.setSubkeys_k2 (L : Block) : (s.setSubkeys L).k2 = doubleGF (doubleGF L) := rfl
@[simp] theorem State.setSubkeys_inbox (L : Block) : (s.setSubkeys L).inbox = s.inbox := rfl
@[simp] theorem State.setSubkeys_responses (L : Block) : (s.setSubkeys L).responses = s.responses := rfl
@[simp] theorem State.setSubkeys_portTrace (L : Block) : (s.setSubkeys L).portTrace = s.portTrace := rfl
@[simp] theorem State.setSubkeys_portPlan (L : Block) : (s.setSubkeys L).portPlan = s.portPlan := rfl
@[simp] theorem State.setSubkeys_portCount (L : Block) : (s.setSubkeys L).portCount = s.portCount := rfl

/-! `State.setChain` -/

@[simp] theorem State.setChain_seq (C : Block) (B : Bytes) : (s.setChain C B).seq = s.seq := rfl
@[simp] theorem State.setChain_key (C : Block) (B : Bytes) : (s.setChain C B).key = s.key := rfl
@[simp] theorem State.setChain_keylen (C : Block) (B : Bytes) : (s.setChain C B).keylen = s.keylen := rfl
@[simp] theorem State.setChain_tagsize (C : Block) (B : Bytes) : (s.setChain C B).tagsize = s.tagsize := rfl
@[simp] theorem State.setChain_cv (C : Block) (B : Bytes) : (s.setChain C B).cv = C := rfl
@[simp] theorem State.setChain_buf (C : Block) (B : Bytes) : (s.setChain C B).buf = B := rfl
@[simp] theorem State.setChain_skvalid (C : Block) (B : Bytes) : (s.setChain C B).skvalid = s.skvalid := rfl
@[simp] theorem State.setChain_k1 (C : Block) (B : Bytes) : (s.setChain C B).k1 = s.k1 := rfl
@[simp] theorem State.setChain_k2 (C : Block) (B : Bytes) : (s.setChain C B).k2 = s.k2 := rfl
@[simp] theorem State.setChain_inbox (C : Block) (B : Bytes) : (s.setChain C B).inbox = s.inbox := rfl
@[simp] theorem State.setChain_responses (C : Block) (B : Bytes) : (s.setChain C B).responses = s.responses := rfl
@[simp] theorem State.setChain_portTrace (C : Block) (B : Bytes) : (s.setChain C B).portTrace = s.portTrace := rfl
@[simp] theorem State.setChain_portPlan (C : Block) (B : Bytes) : (s.setChain C B).portPlan = s.portPlan := rfl
@[simp] theorem State.setChain_portCount (C : Block) (B : Bytes) : (s.setChain C B).portCount = s.portCount := rfl

/-! `State.chainTo` -/

@[simp] theorem State.chainTo_seq (C : Block) : (s.chainTo C).seq = s.seq := rfl
@[simp] theorem State.chainTo_key (C : Block) : (s.chainTo C).key = s.key := rfl
@[simp] theorem State.chainTo_keylen (C : Block) : (s.chainTo C).keylen = s.keylen := rfl
@[simp] theorem State.chainTo_tagsize (C : Block) : (s.chainTo C).tagsize = s.tagsize := rfl
@[simp] theorem State.chainTo_cv (C : Block) : (s.chainTo C).cv = C := rfl
@[simp] theorem State.chainTo_buf (C : Block) : (s.chainTo C).buf = [] := rfl
@[simp] theorem State.chainTo_skvalid (C : Block) : (s.chainTo C).skvalid = s.skvalid := rfl
@[simp] theorem State.chainTo_k1 (C : Block) : (s.chainTo C).k1 = s.k1 := rfl
@[simp] theorem State.chainTo_k2 (C : Block) : (s.chainTo C).k2 = s.k2 := rfl
@[simp] theorem State.chainTo_inbox (C : Block) : (s.chainTo C).inbox = s.inbox := rfl
@[simp] theorem State.chainTo_responses (C : Block) : (s.chainTo C).responses = s.responses := rfl
@[simp] theorem State.chainTo_portTrace (C : Block) : (s.chainTo C).portTrace = s.portTrace := rfl
@[simp] theorem State.chainTo_portPlan (C : Block) : (s.chainTo C).portPlan = s.portPlan := rfl
@[simp] theorem State.chainTo_portCount (C : Block) : (s.chainTo C).portCount = s.portCount := rfl

/-! `State.pushByte` -/

@[simp] theorem State.pushByte_seq (d : Byte) : (s.pushByte d).seq = s.seq := rfl
@[simp] theorem State.pushByte_key (d : Byte) : (s.pushByte d).key = s.key := rfl
@[simp] theorem State.pushByte_keylen (d : Byte) : (s.pushByte d).keylen = s.keylen := rfl
@[simp] theorem State.pushByte_tagsize (d : Byte) : (s.pushByte d).tagsize = s.tagsize := rfl
@[simp] theorem State.pushByte_cv (d : Byte) : (s.pushByte d).cv = s.cv := rfl
@[simp] theorem State.pushByte_buf (d : Byte) : (s.pushByte d).buf = s.buf ++ [d] := rfl
@[simp] theorem State.pushByte_skvalid (d : Byte) : (s.pushByte d).skvalid = s.skvalid := rfl
@[simp] theorem State.pushByte_k1 (d : Byte) : (s.pushByte d).k1 = s.k1 := rfl
@[simp] theorem State.pushByte_k2 (d : Byte) : (s.pushByte d).k2 = s.k2 := rfl
@[simp] theorem State.pushByte_inbox (d : Byte) : (s.pushByte d).inbox = s.inbox := rfl
@[simp] theorem State.pushByte_responses (d : Byte) : (s.pushByte d).responses = s.responses := rfl
@[simp] theorem State.pushByte_portTrace (d : Byte) : (s.pushByte d).portTrace = s.portTrace := rfl
@[simp] theorem State.pushByte_portPlan (d : Byte) : (s.pushByte d).portPlan = s.portPlan := rfl
@[simp] theorem State.pushByte_portCount (d : Byte) : (s.pushByte d).portCount = s.portCount := rfl

/-! `State.loadInstance` -/

@[simp] theorem State.loadInstance_seq (t : Nat) (P : Bytes) : (s.loadInstance t P).seq = .ready := rfl
@[simp] theorem State.loadInstance_key (t : Nat) (P : Bytes) : (s.loadInstance t P).key = keyRegister P := rfl
@[simp] theorem State.loadInstance_keylen (t : Nat) (P : Bytes) : (s.loadInstance t P).keylen = Fin.ofNat 64 P.length := rfl
@[simp] theorem State.loadInstance_tagsize (t : Nat) (P : Bytes) : (s.loadInstance t P).tagsize = Fin.ofNat 32 t := rfl
@[simp] theorem State.loadInstance_cv (t : Nat) (P : Bytes) : (s.loadInstance t P).cv = 0#128 := rfl
@[simp] theorem State.loadInstance_buf (t : Nat) (P : Bytes) : (s.loadInstance t P).buf = [] := rfl
@[simp] theorem State.loadInstance_skvalid (t : Nat) (P : Bytes) : (s.loadInstance t P).skvalid = false := rfl
@[simp] theorem State.loadInstance_k1 (t : Nat) (P : Bytes) : (s.loadInstance t P).k1 = 0#128 := rfl
@[simp] theorem State.loadInstance_k2 (t : Nat) (P : Bytes) : (s.loadInstance t P).k2 = 0#128 := rfl
@[simp] theorem State.loadInstance_inbox (t : Nat) (P : Bytes) : (s.loadInstance t P).inbox = s.inbox := rfl
@[simp] theorem State.loadInstance_responses (t : Nat) (P : Bytes) : (s.loadInstance t P).responses = s.responses := rfl
@[simp] theorem State.loadInstance_portTrace (t : Nat) (P : Bytes) : (s.loadInstance t P).portTrace = s.portTrace := rfl
@[simp] theorem State.loadInstance_portPlan (t : Nat) (P : Bytes) : (s.loadInstance t P).portPlan = s.portPlan := rfl
@[simp] theorem State.loadInstance_portCount (t : Nat) (P : Bytes) : (s.loadInstance t P).portCount = s.portCount := rfl

/-! `State.withInbox` -/

@[simp] theorem State.withInbox_seq (es : List HostEvent) : (s.withInbox es).seq = s.seq := rfl
@[simp] theorem State.withInbox_key (es : List HostEvent) : (s.withInbox es).key = s.key := rfl
@[simp] theorem State.withInbox_keylen (es : List HostEvent) : (s.withInbox es).keylen = s.keylen := rfl
@[simp] theorem State.withInbox_tagsize (es : List HostEvent) : (s.withInbox es).tagsize = s.tagsize := rfl
@[simp] theorem State.withInbox_cv (es : List HostEvent) : (s.withInbox es).cv = s.cv := rfl
@[simp] theorem State.withInbox_buf (es : List HostEvent) : (s.withInbox es).buf = s.buf := rfl
@[simp] theorem State.withInbox_skvalid (es : List HostEvent) : (s.withInbox es).skvalid = s.skvalid := rfl
@[simp] theorem State.withInbox_k1 (es : List HostEvent) : (s.withInbox es).k1 = s.k1 := rfl
@[simp] theorem State.withInbox_k2 (es : List HostEvent) : (s.withInbox es).k2 = s.k2 := rfl
@[simp] theorem State.withInbox_inbox (es : List HostEvent) : (s.withInbox es).inbox = es := rfl
@[simp] theorem State.withInbox_responses (es : List HostEvent) : (s.withInbox es).responses = s.responses := rfl
@[simp] theorem State.withInbox_portTrace (es : List HostEvent) : (s.withInbox es).portTrace = s.portTrace := rfl
@[simp] theorem State.withInbox_portPlan (es : List HostEvent) : (s.withInbox es).portPlan = s.portPlan := rfl
@[simp] theorem State.withInbox_portCount (es : List HostEvent) : (s.withInbox es).portCount = s.portCount := rfl

@[simp] theorem State.errorEntry_invalidArgument : s.errorEntry .invalidArgument = s.respond (.error .invalidArgument) [] := rfl
@[simp] theorem State.errorEntry_stateError : s.errorEntry .stateError = s.respond (.error .stateError) [] := rfl
@[simp] theorem State.errorEntry_illegalCommand : s.errorEntry .illegalCommand = s.respond (.error .illegalCommand) [] := rfl
@[simp] theorem State.errorEntry_cipherError :
    s.errorEntry .cipherError = s.terminate.respond (.error .cipherError) [] := rfl

/-! The key bytes and the coming draws -/

@[simp] theorem State.respond_keyBytes (st : Status) (r : Bytes) : (s.respond st r).keyBytes = s.keyBytes := rfl
@[simp] theorem State.respond_fateAt (st : Status) (r : Bytes) (j : Nat) : (s.respond st r).fateAt j = s.fateAt j := rfl
@[simp] theorem State.zeroize_fateAt (j : Nat) : s.zeroize.fateAt j = s.fateAt j := rfl
@[simp] theorem State.terminate_fateAt (j : Nat) : s.terminate.fateAt j = s.fateAt j := rfl
@[simp] theorem State.logTxns_keyBytes (es : List PortTxn) : (s.logTxns es).keyBytes = s.keyBytes := rfl
@[simp] theorem State.resetInput_fateAt (j : Nat) : s.resetInput.fateAt j = s.fateAt j := rfl
@[simp] theorem State.setSubkeys_keyBytes (L : Block) : (s.setSubkeys L).keyBytes = s.keyBytes := rfl
@[simp] theorem State.setSubkeys_fateAt (L : Block) (j : Nat) : (s.setSubkeys L).fateAt j = s.fateAt j := rfl
@[simp] theorem State.setChain_keyBytes (C : Block) (B : Bytes) : (s.setChain C B).keyBytes = s.keyBytes := rfl
@[simp] theorem State.setChain_fateAt (C : Block) (B : Bytes) (j : Nat) : (s.setChain C B).fateAt j = s.fateAt j := rfl
@[simp] theorem State.chainTo_keyBytes (C : Block) : (s.chainTo C).keyBytes = s.keyBytes := rfl
@[simp] theorem State.chainTo_fateAt (C : Block) (j : Nat) : (s.chainTo C).fateAt j = s.fateAt j := rfl
@[simp] theorem State.pushByte_keyBytes (d : Byte) : (s.pushByte d).keyBytes = s.keyBytes := rfl
@[simp] theorem State.pushByte_fateAt (d : Byte) (j : Nat) : (s.pushByte d).fateAt j = s.fateAt j := rfl
@[simp] theorem State.loadInstance_fateAt (t : Nat) (P : Bytes) (j : Nat) : (s.loadInstance t P).fateAt j = s.fateAt j := rfl
@[simp] theorem State.withInbox_keyBytes (es : List HostEvent) : (s.withInbox es).keyBytes = s.keyBytes := rfl
@[simp] theorem State.withInbox_fateAt (es : List HostEvent) (j : Nat) : (s.withInbox es).fateAt j = s.fateAt j := rfl

@[simp] theorem State.logTxns_fateAt (es : List PortTxn) (j : Nat) :
    (s.logTxns es).fateAt j = s.fateAt (es.length + j) := by
  simp [State.fateAt, List.getElem?_drop, Nat.add_assoc]

/-! The accumulator's updates as one, under the log -/

theorem State.chainTo_eq (C : Block) : s.chainTo C = s.setChain C [] := rfl

theorem State.pushByte_eq (d : Byte) : s.pushByte d = s.setChain s.cv (s.buf ++ [d]) := rfl

@[simp] theorem State.setChain_setChain (C C' : Block) (B B' : Bytes) :
    (s.setChain C B).setChain C' B' = s.setChain C' B' := rfl

@[simp] theorem State.setChain_self : s.setChain s.cv s.buf = s := rfl

theorem State.logTxns_setChain (es : List PortTxn) (C : Block) (B : Bytes) :
    (s.logTxns es).setChain C B = (s.setChain C B).logTxns es := rfl

@[simp] theorem State.logTxns_nil : s.logTxns [] = s := by
  simp [State.logTxns]

theorem State.logTxns_logTxns (es fs : List PortTxn) :
    (s.logTxns es).logTxns fs = s.logTxns (es ++ fs) := by
  simp [State.logTxns, Nat.add_assoc]

end Sys2Proof.Machine
end

