-- ==== Sys2Proof/Laws/Ops.lean ====
section
/-! SUPPORT. Everything the shared operations can do: sequencing, the end of a command, the cipher port. -/

namespace Sys2Proof.Machine

variable {α β : Type} (enc : Cipher) (s : State)

@[simp] theorem Op.bind_done (a : α) (f : α → State → Op β) : (Op.done a s).bind f = f a s := rfl
@[simp] theorem Op.bind_raised (f : α → State → Op β) : (Op.raised s : Op α).bind f = .raised s := rfl
@[simp] theorem Op.bind_hung (f : α → State → Op β) : (Op.hung s : Op α).bind f = .hung s := rfl
@[simp] theorem Op.state_done (a : α) : (Op.done a s).state = s := rfl
@[simp] theorem Op.state_raised : (Op.raised s : Op α).state = s := rfl
@[simp] theorem Op.state_hung : (Op.hung s : Op α).state = s := rfl
@[simp] theorem Op.finish_done (a : α) (k : α → State → State) : (Op.done a s).finish k = .next (k a s) := rfl
@[simp] theorem Op.finish_raised (k : α → State → State) :
    (Op.raised s : Op α).finish k = .next (s.errorEntry .cipherError) := rfl
@[simp] theorem Op.finish_hung (k : α → State → State) :
    (Op.hung s : Op α).finish k = .fault .portNeverAnswers := rfl

/-- A command ends in a next state exactly where its operation gave a value or raised CipherError. -/
theorem Op.finish_next {x : Op α} {k : α → State → State} {t : State} (h : x.finish k = .next t) :
    (∃ a u, x = .done a u ∧ t = k a u) ∨ (∃ u, x = .raised u ∧ t = u.errorEntry .cipherError) := by
  cases x with
  | done a u => exact .inl ⟨a, u, rfl, by simpa using h.symm⟩
  | raised u => exact .inr ⟨u, rfl, by simpa using h.symm⟩
  | hung u => simp at h

theorem portEncrypt_answers (b : Block) (h : s.fateAt 0 = .answers) :
    portEncrypt enc b s = .done (enc s.keyBytes b) (s.logTxns [⟨s.keyBytes, b, .ok (enc s.keyBytes b)⟩]) := by
  simp [portEncrypt, h]

theorem portEncrypt_fails (b : Block) (h : s.fateAt 0 = .fails) :
    portEncrypt enc b s = .raised (s.logTxns [⟨s.keyBytes, b, .fail⟩]) := by
  simp [portEncrypt, h]

theorem portEncrypt_silent (b : Block) (h : s.fateAt 0 = .silent) :
    portEncrypt enc b s = .hung (s.logTxns [⟨s.keyBytes, b, .unanswered⟩]) := by
  simp [portEncrypt, h]

/-- `PortEncrypt` does one of three things, and in each it logs exactly one transaction with the key bytes and the
block it was given. -/
theorem portEncrypt_cases (b : Block) :
    (s.fateAt 0 = .answers ∧ portEncrypt enc b s =
      .done (enc s.keyBytes b) (s.logTxns [⟨s.keyBytes, b, .ok (enc s.keyBytes b)⟩])) ∨
    (s.fateAt 0 = .fails ∧ portEncrypt enc b s = .raised (s.logTxns [⟨s.keyBytes, b, .fail⟩])) ∨
    (s.fateAt 0 = .silent ∧ portEncrypt enc b s = .hung (s.logTxns [⟨s.keyBytes, b, .unanswered⟩])) := by
  cases h : s.fateAt 0 with
  | answers => exact .inl ⟨rfl, portEncrypt_answers enc s b h⟩
  | fails => exact .inr (.inl ⟨rfl, portEncrypt_fails enc s b h⟩)
  | silent => exact .inr (.inr ⟨rfl, portEncrypt_silent enc s b h⟩)

/-- The premise of no failure, one transaction at a time. -/
theorem State.portAnswers_succ (n : Nat) (e : PortTxn) (h : s.portAnswers (n + 1)) :
    s.fateAt 0 = .answers ∧ (s.logTxns [e]).portAnswers n := by
  refine ⟨h 0 (by omega), fun j hj => ?_⟩
  simpa [Nat.add_comm] using h (j + 1) (by omega)

@[simp] theorem State.pushByte_portAnswers (d : Byte) (n : Nat) :
    (s.pushByte d).portAnswers n = s.portAnswers n := rfl

end Sys2Proof.Machine
end

