-- ==== Sys2Proof/Laws/Accumulator.lean ====
section
/-! SUPPORT. Absorb as a function of the buffered bytes and the payload: which blocks it chains, what it leaves,
and where it stops when the port does not answer. -/

namespace Sys2Proof.Machine

variable (enc : Cipher)

theorem slice_length_le (S : Bytes) (i j : Nat) : (slice S i j).length ≤ j - i := by
  simp [slice]

/-- The first block of a buffered full block and what follows it. -/
theorem messageBlock_zero_append (A B : Bytes) (h : A.length = 16) : messageBlock (A ++ B) 0 = Block.ofBytes A := by
  simp [messageBlock, slice, ← h]

theorem messageBlock_succ_append (A B : Bytes) (j : Nat) (h : A.length = 16) :
    messageBlock (A ++ B) (j + 1) = messageBlock B j := by
  have e : 16 * (j + 1) = A.length + 16 * j := by omega
  have e' : 16 * (j + 1) + 16 - 16 * (j + 1) = 16 * j + 16 - 16 * j := by omega
  simp only [messageBlock, slice, e']
  rw [e, List.drop_append, List.drop_eq_nil_of_le (by omega)]
  simp

/-- Chaining a full block first, then the rest. -/
theorem chainFrom_append (k : Bytes) (C : Block) (A B : Bytes) (j : Nat) (h : A.length = 16) :
    chainFrom enc k C (A ++ B) (j + 1) = chainFrom enc k (enc k (C ^^^ Block.ofBytes A)) B j := by
  induction j with
  | zero => simp [chainFrom, messageBlock_zero_append A B h]
  | succ j ih =>
    rw [chainFrom, ih, messageBlock_succ_append A B j h]
    rfl

theorem chainTxns_append (k : Bytes) (C : Block) (A B : Bytes) (n : Nat) (h : A.length = 16) :
    chainTxns enc k C (A ++ B) (n + 1) =
      ⟨k, C ^^^ Block.ofBytes A, .ok (enc k (C ^^^ Block.ofBytes A))⟩ ::
        chainTxns enc k (enc k (C ^^^ Block.ofBytes A)) B n := by
  simp only [chainTxns, List.range_succ_eq_map, List.map_cons, List.map_map]
  congr 1
  · simp [chainRequest, chainFrom, messageBlock_zero_append A B h]
  · refine List.map_congr_left fun j _ => ?_
    simp [chainRequest, chainFrom_append enc k C A B _ h, messageBlock_succ_append A B j h]

@[simp] theorem chainTxns_length (k : Bytes) (C : Block) (D : Bytes) (n : Nat) :
    (chainTxns enc k C D n).length = n := by
  simp [chainTxns]

theorem absorbTxnCount_full (p : Nat) : absorbTxnCount 16 (p + 1) = absorbTxnCount 1 p + 1 := by
  simp only [absorbTxnCount, blockCount]; omega

theorem absorbTxnCount_push (b p : Nat) : absorbTxnCount (b + 1) p = absorbTxnCount b (p + 1) := by
  simp only [absorbTxnCount, blockCount]; congr 2; omega

/-- The state after one chaining step on a full buffer, with `d` the next byte. -/
def State.afterStep (s : State) (enc : Cipher) (d : Byte) : State :=
  (s.setChain (enc s.keyBytes (s.cv ^^^ Block.ofBytes s.buf)) [d]).logTxns
    [⟨s.keyBytes, s.cv ^^^ Block.ofBytes s.buf, .ok (enc s.keyBytes (s.cv ^^^ Block.ofBytes s.buf))⟩]

@[simp] theorem State.afterStep_buf (s : State) (d : Byte) : (s.afterStep enc d).buf = [d] := rfl
@[simp] theorem State.afterStep_keyBytes (s : State) (d : Byte) : (s.afterStep enc d).keyBytes = s.keyBytes := rfl

theorem absorb_full (s : State) (d : Byte) (ds : Bytes) (hb : s.buf.length = 16) (h : s.fateAt 0 = .answers) :
    absorb enc (d :: ds) s = absorb enc ds (s.afterStep enc d) := by
  simp [absorb, State.buflen, Config.blockBytes, hb, processBlock, portEncrypt_answers enc s _ h, State.pushByte_eq,
    State.chainTo_eq, State.logTxns_setChain, State.afterStep]

theorem absorb_full_fails (s : State) (d : Byte) (ds : Bytes) (hb : s.buf.length = 16) (h : s.fateAt 0 = .fails) :
    absorb enc (d :: ds) s = .raised (s.logTxns [⟨s.keyBytes, s.cv ^^^ Block.ofBytes s.buf, .fail⟩]) := by
  simp [absorb, State.buflen, Config.blockBytes, hb, processBlock, portEncrypt_fails enc s _ h]

theorem absorb_full_silent (s : State) (d : Byte) (ds : Bytes) (hb : s.buf.length = 16) (h : s.fateAt 0 = .silent) :
    absorb enc (d :: ds) s = .hung (s.logTxns [⟨s.keyBytes, s.cv ^^^ Block.ofBytes s.buf, .unanswered⟩]) := by
  simp [absorb, State.buflen, Config.blockBytes, hb, processBlock, portEncrypt_silent enc s _ h]

theorem absorb_push (s : State) (d : Byte) (ds : Bytes) (hb : s.buf.length ≠ 16) :
    absorb enc (d :: ds) s = absorb enc ds (s.pushByte d) := by
  simp [absorb, State.buflen, Config.blockBytes, hb]

/-- A chain that starts after one step continues the chain from before it. -/
theorem State.afterStep_chained (s : State) (d : Byte) (ds : Bytes) (n : Nat) (B : Bytes) (es : List PortTxn)
    (hb : s.buf.length = 16) :
    (s.afterStep enc d).chained enc (d :: ds) n B es = s.chained enc (s.buf ++ d :: ds) (n + 1) B es := by
  simp only [State.chained, chainFrom_append enc _ _ _ _ _ hb, chainTxns_append enc _ _ _ _ _ hb,
    State.afterStep, State.logTxns_setChain, State.setChain_setChain, State.logTxns_logTxns]
  rfl

theorem State.pushByte_chained (s : State) (d : Byte) (D : Bytes) (n : Nat) (B : Bytes) (es : List PortTxn) :
    (s.pushByte d).chained enc D n B es = s.chained enc D n B es := rfl

theorem drop_full_block (A B : Bytes) (n : Nat) (h : A.length = 16) :
    (A ++ B).drop (16 * (n + 1)) = B.drop (16 * n) := by
  have e : 16 * (n + 1) = A.length + 16 * n := by omega
  rw [e, List.drop_append, List.drop_eq_nil_of_le (by omega)]
  simp

/-- Absorb with no port failure chains exactly the blocks that have a byte after them, and leaves the rest. -/
theorem absorb_done (P : Bytes) (s : State) (hb : s.buf.length ≤ 16)
    (h : s.portAnswers (absorbTxnCount s.buf.length P.length)) :
    absorb enc P s = .done () (s.chained enc (s.buf ++ P) (absorbTxnCount s.buf.length P.length)
      ((s.buf ++ P).drop (16 * absorbTxnCount s.buf.length P.length)) []) := by
  induction P generalizing s with
  | nil =>
    have hn : absorbTxnCount s.buf.length 0 = 0 := by simp only [absorbTxnCount, blockCount]; omega
    simp [absorb, State.chained, hn, chainFrom, chainTxns]
  | cons d ds ih =>
    by_cases hf : s.buf.length = 16
    · have hn : absorbTxnCount s.buf.length (d :: ds).length = absorbTxnCount 1 ds.length + 1 := by
        simp [hf, absorbTxnCount_full]
      rw [hn] at h ⊢
      obtain ⟨h0, h'⟩ := s.portAnswers_succ _ _ h
      rw [absorb_full enc s d ds hf h0, ih (s.afterStep enc d) (by simp) h', drop_full_block _ _ _ hf,
        ← State.afterStep_chained enc s d ds _ _ _ hf]
      rfl
    · rw [absorb_push enc s d ds hf, ih (s.pushByte d) (by simp; omega) (by simpa [absorbTxnCount_push] using h)]
      simp [State.pushByte_chained, absorbTxnCount_push]

theorem slice_full_block (A B : Bytes) (j : Nat) (h : A.length = 16) :
    slice (A ++ B) (16 * (j + 1)) (16 * (j + 1) + 16) = slice B (16 * j) (16 * j + 16) := by
  have e : 16 * (j + 1) + 16 - 16 * (j + 1) = 16 * j + 16 - 16 * j := by omega
  simp only [slice, drop_full_block A B j h, e]

/-- Absorb where the port answers `j` transactions and then does not answer the next: it stops there, with the
bytes of that block still buffered and the transaction logged. -/
theorem absorb_stops (P : Bytes) (s : State) (j : Nat) (hb : s.buf.length ≤ 16)
    (hj : j < absorbTxnCount s.buf.length P.length) (h : s.portAnswers j) :
    (s.fateAt j = .fails → absorb enc P s = .raised (s.chained enc (s.buf ++ P) j
      (slice (s.buf ++ P) (16 * j) (16 * j + 16)) [stoppedTxn enc s.keyBytes s.cv (s.buf ++ P) j .fail])) ∧
    (s.fateAt j = .silent → absorb enc P s = .hung (s.chained enc (s.buf ++ P) j
      (slice (s.buf ++ P) (16 * j) (16 * j + 16)) [stoppedTxn enc s.keyBytes s.cv (s.buf ++ P) j .unanswered])) := by
  induction P generalizing s j with
  | nil =>
    have hn : absorbTxnCount s.buf.length 0 = 0 := by simp only [absorbTxnCount, blockCount]; omega
    simp [hn] at hj
  | cons d ds ih =>
    by_cases hf : s.buf.length = 16
    · have hn : absorbTxnCount s.buf.length (d :: ds).length = absorbTxnCount 1 ds.length + 1 := by
        simp [hf, absorbTxnCount_full]
      rw [hn] at hj
      cases j with
      | zero =>
        have hs : slice (s.buf ++ d :: ds) (16 * 0) (16 * 0 + 16) = s.buf := by simp [slice, ← hf]
        have hc : ∀ e, s.chained enc (s.buf ++ d :: ds) 0 s.buf [e] = s.logTxns [e] := fun _ => rfl
        rw [hs, hc, hc]
        simp only [stoppedTxn, chainRequest, chainFrom, messageBlock_zero_append _ _ hf]
        exact ⟨absorb_full_fails enc s d ds hf, absorb_full_silent enc s d ds hf⟩
      | succ j =>
        obtain ⟨h0, h'⟩ := s.portAnswers_succ _ _ h
        have hi := ih (s.afterStep enc d) j (by simp) (by simpa using hj) h'
        have hst : ∀ a, stoppedTxn enc s.keyBytes s.cv (s.buf ++ d :: ds) (j + 1) a =
            stoppedTxn enc s.keyBytes (s.afterStep enc d).cv (d :: ds) j a := fun a => by
          simp only [stoppedTxn, chainRequest, chainFrom_append enc _ _ _ _ _ hf, messageBlock_succ_append _ _ _ hf]
          rfl
        rw [absorb_full enc s d ds hf h0, slice_full_block _ _ _ hf, hst, hst,
          ← State.afterStep_chained enc s d ds _ _ _ hf, ← State.afterStep_chained enc s d ds _ _ _ hf]
        simpa [State.afterStep, Nat.add_comm] using hi
    · have hi := ih (s.pushByte d) j (by simp; omega) (by simpa [absorbTxnCount_push] using hj)
        (by simpa using h)
      rw [absorb_push enc s d ds hf]
      simpa [State.pushByte_chained] using hi

/-- What Absorb may change, in every state and however it ends: `CV`, `BUF`, the port trace and the draws. Every
transaction it makes carries the instance's key. -/
theorem absorb_frame (P : Bytes) (s : State) : ∃ C B es,
    (absorb enc P s).state = (s.setChain C B).logTxns es ∧ ∀ e ∈ es, e.key = s.keyBytes := by
  induction P generalizing s with
  | nil => exact ⟨s.cv, s.buf, [], by simp [absorb], by simp⟩
  | cons d ds ih =>
    by_cases hf : s.buf.length = 16
    · cases h : s.fateAt 0 with
      | answers =>
        obtain ⟨C, B, es, hs, hk⟩ := ih (s.afterStep enc d)
        rw [absorb_full enc s d ds hf h, hs, State.afterStep, State.logTxns_setChain, State.logTxns_logTxns,
          State.setChain_setChain]
        exact ⟨C, B, _, rfl, by simpa using hk⟩
      | fails =>
        rw [absorb_full_fails enc s d ds hf h]
        exact ⟨s.cv, s.buf, _, rfl, by simp⟩
      | silent =>
        rw [absorb_full_silent enc s d ds hf h]
        exact ⟨s.cv, s.buf, _, rfl, by simp⟩
    · obtain ⟨C, B, es, hs, hk⟩ := ih (s.pushByte d)
      rw [absorb_push enc s d ds hf, hs, State.pushByte_eq, State.setChain_setChain]
      exact ⟨C, B, es, rfl, by simpa using hk⟩

end Sys2Proof.Machine
end

