-- ==== Sys2Proof/Laws/Decode.lean ====
section
/-! SUPPORT. The fields of a command word and the rows of the opcode table. -/

namespace Sys2Proof

theorem commandWord_getLsbD (a o : BitVec 8) (i : Nat) :
    (commandWord a o).getLsbD i = if i < 8 then o.getLsbD i else a.getLsbD (i - 8) := by
  simp only [commandWord, BitVec.getLsbD_append]
  by_cases h8 : i < 8
  · simp [h8]; omega
  · by_cases h16 : i < 16
    · simp [h8, h16]
    · have : 8 ≤ i - 8 := by omega
      simp [h8, h16, BitVec.getLsbD_of_ge _ _ this]

@[simp] theorem opcField_commandWord (a o : BitVec 8) : opcField (commandWord a o) = o := by
  apply BitVec.eq_of_getLsbD_eq
  intro i hi
  simp [opcField, commandWord_getLsbD, hi]

@[simp] theorem argField_commandWord (a o : BitVec 8) : argField (commandWord a o) = a := by
  apply BitVec.eq_of_getLsbD_eq
  intro i hi
  simp [argField, commandWord_getLsbD, hi]

@[simp] theorem rsvdField_commandWord (a o : BitVec 8) : rsvdField (commandWord a o) = 0#16 := by
  apply BitVec.eq_of_getLsbD_eq
  intro i hi
  have h : ¬ 16 + i < 8 := by omega
  have h' : 8 ≤ 16 + i - 8 := by omega
  simp [rsvdField, commandWord_getLsbD, h, BitVec.getLsbD_of_ge _ _ h']

/-- A word whose reserved field is zero is put together from its other two fields. -/
theorem commandWord_fields (w : CommandWord) (h : rsvdField w = 0#16) :
    commandWord (argField w) (opcField w) = w := by
  apply BitVec.eq_of_getLsbD_eq
  intro i hi
  rw [commandWord_getLsbD]
  by_cases h8 : i < 8
  · simp [h8, opcField]
  · by_cases h16 : i < 16
    · have h' : i - 8 < 8 := by omega
      have e : 8 + (i - 8) = i := by omega
      simp [h8, argField, h', e]
    · have hr : (rsvdField w).getLsbD (i - 16) = false := by simp [h]
      have h' : i - 16 < 16 := by omega
      have e : 16 + (i - 16) = i := by omega
      have h'' : 8 ≤ i - 8 := by omega
      simp only [rsvdField, BitVec.getLsbD_extractLsb', h', decide_true, Bool.true_and, e] at hr
      simp [h8, hr, BitVec.getLsbD_of_ge _ _ h'']

end Sys2Proof
end

