-- ==== Sys2Proof/Laws/Finalizer.lean ====
section
/-! SUPPORT. Everything the FINALIZE body can do, with and without derived subkeys. -/

namespace Sys2Proof.Machine

variable (enc : Cipher) (s : State)

/-- Derivation logs one transaction with the zero block, and writes the subkeys only when it is answered (R72). -/
theorem deriveSubkeys_cases :
    (s.fateAt 0 = .answers ∧ deriveSubkeys enc s =
      .done () ((s.logTxns [⟨s.keyBytes, 0#128, .ok (enc s.keyBytes 0#128)⟩]).setSubkeys (enc s.keyBytes 0#128))) ∨
    (s.fateAt 0 = .fails ∧ deriveSubkeys enc s = .raised (s.logTxns [⟨s.keyBytes, 0#128, .fail⟩])) ∨
    (s.fateAt 0 = .silent ∧ deriveSubkeys enc s = .hung (s.logTxns [⟨s.keyBytes, 0#128, .unanswered⟩])) := by
  rcases portEncrypt_cases enc s 0#128 with ⟨h, e⟩ | ⟨h, e⟩ | ⟨h, e⟩ <;> simp [deriveSubkeys, e, h]

/-- The last part of the body, once the subkeys are there (R92, R93). -/
def closeInstance : Op Bytes :=
  (finalEncrypt enc s).bind fun T s2 => .done (truncate T s2.tagsize.val) s2

theorem finalizeBody_derived (h : s.skvalid = true) : finalizeBody enc s = closeInstance enc s := by
  simp [finalizeBody, closeInstance, h]

theorem finalizeBody_derives (h : s.skvalid = false) :
    finalizeBody enc s = (deriveSubkeys enc s).bind fun _ s1 => closeInstance enc s1 := by
  simp [finalizeBody, closeInstance, h]

/-- The final call logs one transaction and ends the body (R92). -/
theorem closeInstance_cases :
    (s.fateAt 0 = .answers ∧ closeInstance enc s =
      .done (truncate (enc s.keyBytes (finalBlock s ^^^ s.cv)) s.tagsize.val)
        (s.logTxns [⟨s.keyBytes, finalBlock s ^^^ s.cv, .ok (enc s.keyBytes (finalBlock s ^^^ s.cv))⟩])) ∨
    (s.fateAt 0 = .fails ∧ closeInstance enc s =
      .raised (s.logTxns [⟨s.keyBytes, finalBlock s ^^^ s.cv, .fail⟩])) ∨
    (s.fateAt 0 = .silent ∧ closeInstance enc s =
      .hung (s.logTxns [⟨s.keyBytes, finalBlock s ^^^ s.cv, .unanswered⟩])) := by
  rcases portEncrypt_cases enc s (finalBlock s ^^^ s.cv) with ⟨h, e⟩ | ⟨h, e⟩ | ⟨h, e⟩ <;>
    simp [closeInstance, finalEncrypt, e, h]

/-- Ending the instance forgets the subkeys that were derived for it (R24). -/
@[simp] theorem State.setSubkeys_terminate (L : Block) : (s.setSubkeys L).terminate = s.terminate := rfl

theorem State.logTxns_setSubkeys (es : List PortTxn) (L : Block) :
    (s.logTxns es).setSubkeys L = (s.setSubkeys L).logTxns es := rfl

/-- Whatever the body does, the state it leaves differs from the start in the subkeys and the log alone, and every
transaction carries the instance's key. -/
theorem finalizeBody_frame : ∃ es,
    ((finalizeBody enc s).state = s.logTxns es ∨
      (finalizeBody enc s).state = (s.setSubkeys (enc s.keyBytes 0#128)).logTxns es) ∧
    es.length ≤ 2 ∧ ∀ e ∈ es, e.key = s.keyBytes := by
  cases hs : s.skvalid with
  | true =>
    rw [finalizeBody_derived enc s hs]
    rcases closeInstance_cases enc s with ⟨_, e⟩ | ⟨_, e⟩ | ⟨_, e⟩ <;> rw [e] <;>
      exact ⟨_, .inl rfl, by simp, by simp⟩
  | false =>
    rw [finalizeBody_derives enc s hs]
    rcases deriveSubkeys_cases enc s with ⟨_, e⟩ | ⟨_, e⟩ | ⟨_, e⟩
    · rw [e, Op.bind_done, State.logTxns_setSubkeys]
      rcases closeInstance_cases enc ((s.setSubkeys (enc s.keyBytes 0#128)).logTxns
        [⟨s.keyBytes, 0#128, .ok (enc s.keyBytes 0#128)⟩]) with ⟨_, e'⟩ | ⟨_, e'⟩ | ⟨_, e'⟩ <;>
        rw [e'] <;> simp only [Op.state_done, Op.state_raised, Op.state_hung, State.logTxns_logTxns] <;>
        exact ⟨_, .inr rfl, by simp, by simp⟩
    · rw [e]; exact ⟨_, .inl rfl, by simp, by simp⟩
    · rw [e]; exact ⟨_, .inl rfl, by simp, by simp⟩

end Sys2Proof.Machine
end

