-- ==== Sys2Proof/Laws/Operands.lean ====
section
/-! SUPPORT. The byte order of a block, bit by bit. -/

namespace Sys2Proof

/-- Appending the bytes of `bs` below a block: the last byte ends up in bits 7..0. -/
theorem foldl_bytes_getLsbD (bs : Bytes) (acc : Block) (j : Nat) (hj : j < 128) :
    (bs.foldl (fun (a : Block) (b : Byte) => (a <<< 8) ||| b.setWidth 128) acc).getLsbD j =
      if j < 8 * bs.length then (bs.getD (bs.length - 1 - j / 8) 0).getLsbD (j % 8)
      else acc.getLsbD (j - 8 * bs.length) := by
  induction bs generalizing acc with
  | nil => simp
  | cons b bs ih =>
    rw [List.foldl_cons, ih]
    by_cases h : j < 8 * bs.length
    · have h' : j < 8 * (b :: bs).length := by simp; omega
      have e : (b :: bs).length - 1 - j / 8 = (bs.length - 1 - j / 8) + 1 := by simp; omega
      rw [if_pos h, if_pos h', e]
      simp
    · rw [if_neg h]
      by_cases h8 : j - 8 * bs.length < 8
      · have h' : j < 8 * (b :: bs).length := by simp; omega
        have e : (b :: bs).length - 1 - j / 8 = 0 := by simp; omega
        have e' : j % 8 = j - 8 * bs.length := by omega
        rw [if_pos h', e, e']
        simp [h8]
        omega
      · have h' : ¬ j < 8 * (b :: bs).length := by simp; omega
        have e : j - 8 * bs.length - 8 = j - 8 * (b :: bs).length := by simp; omega
        rw [if_neg h']
        simp [h8, e, BitVec.getLsbD_of_ge b _ (Nat.not_lt.mp h8)]
        omega

/-- Bit `j` of the block of sixteen bytes is bit `j % 8` of byte `15 − j / 8` (R7). -/
theorem Block.ofBytes_getLsbD (bs : Bytes) (h : bs.length = 16) (j : Nat) (hj : j < 128) :
    (Block.ofBytes bs).getLsbD j = (bs.getD (15 - j / 8) 0).getLsbD (j % 8) := by
  rw [Block.ofBytes, foldl_bytes_getLsbD bs _ j hj, if_pos (by omega), h]

/-- Bit `j` of byte `i` of a block (R7). -/
theorem Block.byte_getLsbD (B : Block) (i j : Nat) (hj : j < 8) :
    (Block.byte B i).getLsbD j = B.getLsbD (8 * (15 - i) + j) := by
  simp [Block.byte, hj]

@[simp] theorem Block.toBytes_length (B : Block) : (Block.toBytes B).length = 16 := by
  simp [Block.toBytes]

namespace Machine

@[simp] theorem truncate_length (B : Block) (t : Nat) : (truncate B t).length = min t 16 := by
  simp [truncate]

/-- The key register holds the payload and zeros above it (R13). -/
theorem keyRegister_toList (P : Bytes) (h : P.length ≤ 32) :
    (keyRegister P).toList = P ++ zeroBytes (32 - P.length) := by
  apply List.ext_getElem
  · simp [zeroBytes]; omega
  · intro i h1 h2
    by_cases hi : i < P.length
    · simp [keyRegister, hi]
    · simp [keyRegister, hi, List.getElem_append, zeroBytes]

end Machine

end Sys2Proof
end

