-- ==== Sys2Proof/Laws/PerInstr.lean ====
section
/-! SUPPORT. Statements about every instruction as syntax, one lemma a constructor. Family `TableRow`: the encoder
writes a word of the instruction's own row of spec/opcode_table.json. -/

namespace Sys2Proof.Laws.TableRow

/-- The encoded word lies in the instruction's row, and the row is one of the table's. -/
def Statement (i : Instr) : Prop :=
  (encode i).word &&& i.row.mask = i.row.pattern ∧ i.row ∈ opcodeTable

theorem new (t : Nat) (P : Bytes) : Statement (.new t P) := by
  refine ⟨?_, by simp [Instr.row, opcodeTable]⟩
  simp only [encode, Instr.row]
  generalize BitVec.ofNat 8 t = a
  revert a
  decide

theorem update (P : Bytes) : Statement (.update P) :=
  ⟨by simp only [encode, Instr.row]; decide, by simp [Instr.row, opcodeTable]⟩

theorem finalize : Statement .finalize :=
  ⟨by simp only [encode, Instr.row]; decide, by simp [Instr.row, opcodeTable]⟩

end Sys2Proof.Laws.TableRow
end

