-- ==== Sys2Proof/Laws/Step.lean ====
section
/-! SUPPORT. What a command and a step can do, once for all claims. -/

namespace Sys2Proof.Machine

@[simp] theorem exec_new (t : Nat) (P : Bytes) (s : State) : exec (.new t P) s = execNew t P s := rfl
@[simp] theorem exec_update (P : Bytes) (s : State) : exec (.update P) s = execUpdate P s := rfl
@[simp] theorem exec_finalize (s : State) : exec .finalize s = execFinalize s := rfl

theorem execNew_valid {t : Nat} {P : Bytes} (s : State) (h : newArgsValid t P = true) :
    execNew t P s = .next ((s.loadInstance t P).respond .ok []) := by
  simp [execNew, h]

theorem execNew_invalid {t : Nat} {P : Bytes} (s : State) (h : newArgsValid t P = false) :
    execNew t P s = .next (s.respond (.error .invalidArgument) []) := by
  simp [execNew, h]

theorem newArgsValid_iff (t : Nat) (P : Bytes) :
    newArgsValid t P = true ↔ (P.length = 16 ∨ P.length = 32) ∧ 1 ≤ t ∧ t ≤ 16 := by
  simp only [newArgsValid, Bool.and_eq_true, decide_eq_true_eq]
  simp [Config.keyLengths, Config.tagMin, Config.tagMax, and_assoc]

/-- An UPDATE that answers a next state: outside READY a StateError, in READY an OK with only the accumulator and the
log changed, or a CipherError that ends the instance. -/
theorem execUpdate_next {P : Bytes} {s t : State} (h : execUpdate P s = .next t) :
    (s.seq ≠ .ready ∧ t = s.respond (.error .stateError) []) ∨
    (s.seq = .ready ∧ ∃ C B es, (∀ e ∈ es, e.key = s.keyBytes) ∧
      absorb Config.encrypt P s = .done () ((s.setChain C B).logTxns es) ∧
      t = ((s.setChain C B).logTxns es).respond .ok []) ∨
    (s.seq = .ready ∧ ∃ C B es, (∀ e ∈ es, e.key = s.keyBytes) ∧
      absorb Config.encrypt P s = .raised ((s.setChain C B).logTxns es) ∧
      t = (s.logTxns es).terminate.respond (.error .cipherError) []) := by
  by_cases hr : s.seq = .ready
  · simp only [execUpdate, updateWith, hr, if_true] at h
    obtain ⟨C, B, es, hs, hk⟩ := absorb_frame Config.encrypt P s
    rcases Op.finish_next h with ⟨⟨⟩, u, hx, ht⟩ | ⟨u, hx, ht⟩
    · have hu : u = (s.setChain C B).logTxns es := by simpa [hx] using hs
      exact .inr (.inl ⟨hr, C, B, es, hk, hu ▸ hx, hu ▸ ht⟩)
    · have hu : u = (s.setChain C B).logTxns es := by simpa [hx] using hs
      subst hu
      exact .inr (.inr ⟨hr, C, B, es, hk, hx, ht⟩)
  · simp only [execUpdate, updateWith, hr, if_false] at h
    exact .inl ⟨hr, by simpa using h.symm⟩

/-- A FINALIZE that answers a next state: outside READY a StateError, in READY the end of the instance with the tag
or with a CipherError. -/
theorem execFinalize_next {s t : State} (h : execFinalize s = .next t) :
    (s.seq ≠ .ready ∧ t = s.respond (.error .stateError) []) ∨
    (s.seq = .ready ∧ ∃ tag u es, es.length ≤ 2 ∧ (∀ e ∈ es, e.key = s.keyBytes) ∧
      finalizeBody Config.encrypt s = .done tag u ∧ t = (s.logTxns es).terminate.respond .ok tag) ∨
    (s.seq = .ready ∧ ∃ u es, es.length ≤ 2 ∧ (∀ e ∈ es, e.key = s.keyBytes) ∧
      finalizeBody Config.encrypt s = .raised u ∧ t = (s.logTxns es).terminate.respond (.error .cipherError) []) := by
  by_cases hr : s.seq = .ready
  · simp only [execFinalize, finalizeWith, hr, if_true] at h
    obtain ⟨es, hs, hl, hk⟩ := finalizeBody_frame Config.encrypt s
    have hterm : ∀ u, (finalizeBody Config.encrypt s).state = u → u.terminate = (s.logTxns es).terminate := by
      rintro u rfl
      rcases hs with e | e <;> rw [e]
      rfl
    rcases Op.finish_next h with ⟨tag, u, hx, ht⟩ | ⟨u, hx, ht⟩
    · have := hterm u (by rw [hx]; rfl)
      exact .inr (.inl ⟨hr, tag, u, es, hl, hk, hx, by rw [ht, this]⟩)
    · have := hterm u (by rw [hx]; rfl)
      exact .inr (.inr ⟨hr, u, es, hl, hk, hx, by rw [ht, State.errorEntry_cipherError, this]⟩)
  · simp only [execFinalize, finalizeWith, hr, if_false] at h
    exact .inl ⟨hr, by simpa using h.symm⟩

/-- A NEW always answers a next state: a new instance, or InvalidArgument. -/
theorem execNew_next {n : Nat} {P : Bytes} {s t : State} (h : execNew n P s = .next t) :
    (newArgsValid n P = true ∧ t = (s.loadInstance n P).respond .ok []) ∨
    (newArgsValid n P = false ∧ t = s.respond (.error .invalidArgument) []) := by
  cases hv : newArgsValid n P with
  | true => rw [execNew_valid s hv] at h; exact .inl ⟨rfl, by simpa using h.symm⟩
  | false => rw [execNew_invalid s hv] at h; exact .inr ⟨rfl, by simpa using h.symm⟩

/-- Every way a step can answer a next state, by the event it takes. -/
theorem step_next {s t : State} (h : step s = .next t) :
    (s.inbox = [] ∧ t = s) ∨
    (∃ c es i, s.inbox = .command c :: es ∧ decode c = .instr i ∧ exec i (s.withInbox es) = .next t) ∨
    (∃ c es w, s.inbox = .command c :: es ∧ decode c = .illegal w ∧
      t = (s.withInbox es).respond (.error .illegalCommand) []) ∨
    (∃ es, s.inbox = .reset :: es ∧ t = (s.withInbox es).resetInput) ∨
    (∃ c n es, s.inbox = .commandCutByReset c n :: es ∧
      t = (s.withInbox es).abandonCommand ((commandTxns Config.encrypt c (s.withInbox es)).take n)) := by
  unfold step at h
  cases hi : s.inbox with
  | nil => simp only [hi] at h; exact .inl ⟨rfl, by simpa using h.symm⟩
  | cons e es =>
    simp only [hi] at h
    cases e with
    | command c =>
      cases hd : decode c with
      | instr i => simp only [runCommand, hd] at h; exact .inr (.inl ⟨c, es, i, rfl, hd, h⟩)
      | illegal w =>
        simp only [runCommand, hd] at h
        exact .inr (.inr (.inl ⟨c, es, w, rfl, hd, by simpa [illegalCommand] using h.symm⟩))
    | reset => exact .inr (.inr (.inr (.inl ⟨es, rfl, by simpa using h.symm⟩)))
    | commandCutByReset c n =>
      exact .inr (.inr (.inr (.inr ⟨c, n, es, rfl, by simpa [commandCutByReset] using h.symm⟩)))
    | overlap a b => simp at h

end Sys2Proof.Machine
end

