-- ==== Sys2Proof/Tests/Slice0.lean ====
section
/-! SUPPORT. Tests on fixed values, with the expected results from spec/ (95_test_vectors.md unless another file is
named), and for each obligation a concrete witness that meets its hypotheses. -/

namespace Sys2Proof.Tests

open Sys2Proof.Machine

/-! ### Helpers -/

/-- The mock cipher of 95_test_vectors.md 3.2. -/
def mock : Cipher := fun k b => (b ^^^ Block.ofBytes (k.take 16)).rotateLeft 8

/-- The key `00 01 … 0f` of 95_test_vectors.md 3.5. -/
def mockKey : Bytes := (List.range 16).map (BitVec.ofNat 8)

/-- `M_N` of 95_test_vectors.md 3.5. -/
def msg (n : Nat) : Bytes := (List.range n).map fun i => BitVec.ofNat 8 (16 + i)

/-- An instance in progress with the mock key, the buffered bytes, and the coming draws of the port. -/
def ready (buf : Bytes) (plan : List PortFate) : State :=
  { State.reset with
    seq := .ready
    key := keyRegister mockKey
    keylen := 16
    tagsize := 16
    buf := buf
    portPlan := plan }

/-- The state with one event presented. -/
def presented (s : State) (e : HostEvent) : State := s.withInbox [e]

/-- The last response of an outcome. -/
def lastResponse : Host.Outcome State Fault Refusal → Option Response
  | .next s => s.responses.getLast?
  | .fault _ => none
  | .refused _ => none

/-- The blocks sent, by an outcome's port trace. -/
def blocksSent : Host.Outcome State Fault Refusal → List Block
  | .next s => s.portTrace.map PortTxn.block
  | .fault _ => []
  | .refused _ => []

/-- One register of the next state, or a default. -/
def after {α : Type} (d : α) (f : State → α) : Host.Outcome State Fault Refusal → α
  | .next s => f s
  | .fault _ => d
  | .refused _ => d

/-! ### Well-formedness and decoding -/

/-- 30_encoding.md R53: a tag size of 256 has no encoding. -/
theorem test_wf_rejects_wide_tag : Instr.wf (.new 256 []) = false := by decide
theorem test_wf_accepts_largest_tag : Instr.wf (.new 255 []) = true := by decide

/-- 30_encoding.md R61: `NEW tag=16` is `0x0000_1001`. -/
theorem test_decode_new : decode ⟨0b00000000000000000001000000000001#32, mockKey⟩ = .instr (.new 16 mockKey) := by decide
theorem test_decode_update : decode ⟨0b00000000000000000000000000000010#32, [0xAB#8]⟩ = .instr (.update [0xAB#8]) := by
  decide
theorem test_decode_finalize : decode ⟨0b00000000000000000000000000000011#32, []⟩ = .instr .finalize := by decide
/-- 3.8: RSVD ≠ 0, reserved opcodes, ARG ≠ 0, payload on FINALIZE. -/
theorem test_decode_illegal :
    decode ⟨0x00010001#32, mockKey⟩ = .illegal .reservedNotZero ∧ decode ⟨0x00000000#32, []⟩ = .illegal .reservedOpcode ∧
    decode ⟨0x00000102#32, [0x00#8]⟩ = .illegal .argNotZero ∧ decode ⟨0x00000103#32, []⟩ = .illegal .argNotZero ∧
    decode ⟨0x00000003#32, [0x00#8]⟩ = .illegal .payloadNotEmpty := by decide
theorem test_encode_new : encode (.new 16 mockKey) = ⟨0x00001001#32, mockKey⟩ := by decide
theorem test_decodeTableWord : decodeTableWord 32 0x00000002 = some (.update []) ∧ decodeTableWord 32 0x00010002 = none := by
  decide

/-! ### Scripts (30_encoding.md R61, R62) -/

theorem test_script_new : assembleLine "NEW tag=4, key=00 01_02 ; a comment".toList =
    some [⟨0x00000401#32, [0x00#8, 0x01#8, 0x02#8]⟩] := by decide
theorem test_script_raw : assembleLine ".raw   0x00000103, \"\"".toList = some [⟨0x00000103#32, []⟩] := by decide
theorem test_script_mac : assembleLine "MAC tag=16, key=aB, msg=01".toList =
    some [⟨0x00001001#32, [0xAB#8]⟩, ⟨0x00000002#32, [0x01#8]⟩, ⟨0x00000003#32, []⟩] := by decide
/-- Blanks around `<d>`: the model's choice (log 13), not the spec's. -/
theorem test_script_blanks : assembleLine "NEW tag= 4 , key=00".toList = assembleLine "NEW tag=4, key=00".toList ∧
    assembleLine "NEW tag =4, key=00".toList = none ∧ assembleLine "NEW tag=1 6, key=00".toList = none := by decide
theorem test_script_rejects : assembleLine "NEW tag=256, key=00".toList = none ∧ assembleLine "UPDATE 0".toList = none := by
  decide
theorem test_script_program : assemble ["UPDATE \"\"".toList, "; nothing".toList, "FINALIZE".toList] =
    some [⟨0x00000002#32, []⟩, ⟨0x00000003#32, []⟩] := by decide

/-! ### Blocks and subkeys (3.1, 3.3, 3.4) -/

theorem test_doubleGF_all_ones : doubleGF 0xffffffffffffffffffffffffffffffff#128 = 0xffffffffffffffffffffffffffffff79#128 := by
  decide
theorem test_doubleGF_published : doubleGF 0xfbeed618357133667c85e08f7236a8de#128 = 0xf7ddac306ae266ccf90bc11ee46d513b#128 := by
  decide
theorem test_mock_subkeys : after 0 (fun s => s.k2) ((deriveSubkeys mock (ready [] [.answers])).finish fun _ s => s) =
    0x04080c1014181c2024282c3034383c00#128 := by decide
theorem test_pad_fifteen : Block.ofBytes (pad (msg 15)) = 0x101112131415161718191a1b1c1d1e80#128 := by decide
theorem test_block_bytes : Block.toBytes 0x101112131415161718191a1b1c1d1e1f#128 = msg 16 := by decide

/-! ### The commands (3.5 to 3.8), one step each -/

/-- 3.8: `0x00000101` with 32 bytes is OK from IDLE, and the whole payload is the key (R101). -/
theorem test_new_ok : lastResponse (exec (.new 1 (msg 32)) State.reset) = some ⟨.ok, []⟩ ∧
    after [] State.keyBytes (exec (.new 1 (msg 32)) State.reset) = msg 32 := by decide
/-- 3.8: `t = 17` is InvalidArgument; R101: a failed NEW leaves the instance as it was. -/
theorem test_new_invalid : lastResponse (exec (.new 17 (msg 32)) (ready (msg 3) [])) = some ⟨.error .invalidArgument, []⟩ ∧
    after [] State.buf (exec (.new 17 (msg 32)) (ready (msg 3) [])) = msg 3 := by decide
/-- 3.5, N = 17: block 0 is sent, the chaining value is `10 … 10`, and one byte is buffered. -/
theorem test_update_seventeen : blocksSent (updateWith mock (msg 17) (ready [] [.answers])) =
    [0x101112131415161718191a1b1c1d1e1f#128] ∧
    after 0 State.cv (updateWith mock (msg 17) (ready [] [.answers])) = 0x10101010101010101010101010101010#128 ∧
    after [] State.buf (updateWith mock (msg 17) (ready [] [.answers])) = [0x20#8] := by decide
/-- P3: a failed port transaction ends the instance. -/
theorem test_update_port_failure : lastResponse (updateWith mock (msg 17) (ready [] [.fails])) =
    some ⟨.error .cipherError, []⟩ ∧
    after .idle State.seq (updateWith mock (msg 17) (ready [] [.fails])) = .finalized := by decide
/-- 3.5, N = 1: the K2 branch. -/
theorem test_finalize_partial : lastResponse (finalizeWith mock (ready (msg 1) [.answers, .answers])) =
    some ⟨.ok, Block.toBytes 0x890e13101d1a272c21263b3835320f14#128⟩ := by decide
/-- 3.5, N = 16: the K1 branch, with the derivation request first. -/
theorem test_finalize_full : lastResponse (finalizeWith mock (ready (msg 16) [.answers, .answers])) =
    some ⟨.ok, Block.toBytes 0x1416181a1c1e00020406080a0c0e1012#128⟩ ∧
    blocksSent (finalizeWith mock (ready (msg 16) [.answers, .answers])) =
      [0#128, 0x1215141b1e1918070a0d0c030601001f#128] := by decide

/-- The first instruction after reset, from its table word: FINALIZE in IDLE is StateError (3.8). -/
theorem test_first_command_after_reset :
    lastResponse (step (State.reset.withFetchWord 32 0x00000003)) = some ⟨.error .stateError, []⟩ := by decide
/-- 3.8: a FINALIZE with a payload is IllegalCommand in FINALIZED too. -/
theorem test_illegal_before_state : lastResponse (step (presented { State.reset with seq := .finalized }
    (.command ⟨0x00000003#32, [0x00#8]⟩))) = some ⟨.error .illegalCommand, []⟩ := by decide

/-! ### Witnesses: for each obligation with hypotheses, concrete values that meet them all -/

theorem witness_portAnswers_two (buf : Bytes) : (ready buf [.answers, .answers]).portAnswers 2 := by
  intro j hj
  rcases j with _ | _ | j
  · rfl
  · rfl
  · omega

theorem witness_portAnswers_one (buf : Bytes) : (ready buf [.answers]).portAnswers 1 := by
  intro j hj
  obtain rfl : j = 0 := by omega
  rfl

theorem witness_portAnswers_zero (s : State) : s.portAnswers 0 := fun _ h => absurd h (by omega)

/-- A state of the invariant in READY, with a full buffer. -/
theorem witness_ready_inv : (ready (msg 16) []).Inv := by
  simp only [State.Inv]; decide

theorem witness_reset_event : ∃ (s : State) (es : List HostEvent), s.inbox = .reset :: es :=
  ⟨presented (ready (msg 3) []) .reset, [], rfl⟩

theorem witness_step_keeps_inv : ∃ s t : State, s.Inv ∧ s.seq = .ready ∧ step s = .next t :=
  ⟨presented (ready (msg 16) []) (.command ⟨0x00000002#32, []⟩), _, witness_ready_inv, rfl, rfl⟩

theorem witness_trace_honest : ∃ s t : State, s.traceHonest ∧ s.portTrace ≠ [] ∧ step s = .next t :=
  ⟨{ State.reset with portTrace := [⟨mockKey, 0#128, .ok (Config.encrypt mockKey 0#128)⟩] }, _,
    by rintro e he c hc; simp at he; subst he; simpa using hc.symm, by simp, rfl⟩

theorem witness_wf : Instr.wf (.new 255 mockKey) = true ∧ Instr.wf (.new 0 []) = true := by decide

theorem witness_decoded : decode ⟨0x0000FF01#32, []⟩ = .instr (.new 255 []) ∧
    decode ⟨0x00000002#32, mockKey⟩ = .instr (.update mockKey) ∧ decode ⟨0x00000003#32, []⟩ = .instr .finalize := by decide

theorem witness_illegal_each_clause :
    ((∃ why, decode ⟨0xFFFF0001#32, []⟩ = .illegal why) ∧ (∃ why, decode ⟨0x00000004#32, []⟩ = .illegal why) ∧
      (∃ why, decode ⟨0x00000102#32, []⟩ = .illegal why) ∧ (∃ why, decode ⟨0x00000003#32, [0x00#8]⟩ = .illegal why)) ∧
    (presented State.reset (.command ⟨0x00000004#32, []⟩)).inbox = [.command ⟨0x00000004#32, []⟩] :=
  ⟨⟨⟨.reservedNotZero, by decide⟩, ⟨.reservedOpcode, by decide⟩, ⟨.argNotZero, by decide⟩, ⟨.payloadNotEmpty, by decide⟩⟩, rfl⟩

theorem witness_table_rows : ∀ r ∈ opcodeTable, r.pattern &&& r.mask = r.pattern := by decide

theorem witness_script_tags : (255 < 256) ∧ ¬ (256 < 256) := by decide

theorem witness_sixteen_bytes : (msg 16).length = 16 := by decide

theorem witness_bit_indexes : (0 < 128) ∧ (127 < 128) := by decide

theorem witness_equal_doubles : doubleGF 0x87#128 = doubleGF 0x87#128 := rfl

theorem witness_partial_blocks : ([] : Bytes).length ≤ 15 ∧ (msg 15).length ≤ 15 ∧ pad (msg 15) = pad (msg 15) ∧
    ([] : Bytes).length < 1 ∧ 15 < 16 := by decide

theorem witness_step_decodes : ∃ (s : State) (c : Command) (es : List HostEvent) (i : Instr),
    s.inbox = .command c :: es ∧ decode c = .instr i :=
  ⟨presented State.reset (.command ⟨0x00001001#32, mockKey⟩), _, _, .new 16 mockKey, rfl, by decide⟩

theorem witness_presented_commands : (∀ i ∈ [Instr.new 16 mockKey, .finalize], i.wf = true) ∧
    (State.reset.withInbox [.command (encode (.new 16 mockKey)), .command (encode .finalize), .reset]).inbox =
      [Instr.new 16 mockKey, .finalize].map (fun i => HostEvent.command (encode i)) ++ [.reset] := by decide

theorem witness_observed_steps : (∃ t, step (presented State.reset (.command ⟨0x00000003#32, []⟩)) = .next t) ∧
    (∃ t, step (presented State.reset .reset) = .next t) := ⟨⟨_, rfl⟩, ⟨_, rfl⟩⟩

theorem witness_no_event : State.reset.inbox = [] := rfl

theorem witness_overlap : (presented State.reset (.overlap ⟨0x00000002#32, []⟩ ⟨0x00000003#32, []⟩)).inbox =
    [.overlap ⟨0x00000002#32, []⟩ ⟨0x00000003#32, []⟩] := rfl

/-- A command cut by reset that has transactions to keep, and whose uncut run answers. -/
theorem witness_cut_command : ∃ (s : State) (c : Command) (n : Nat) (u : State),
    s.inbox = [.commandCutByReset c n] ∧ runCommand c { s with inbox := [] } = .next u ∧ u.portTrace.length = 2 :=
  ⟨presented (ready [] [.answers, .answers]) (.commandCutByReset ⟨0x00000003#32, []⟩ 1), ⟨0x00000003#32, []⟩, 1, _,
    rfl, rfl, rfl⟩

theorem witness_new_arguments :
    ((msg 16).length = 16 ∧ (msg 32).length = 32 ∧ 1 ≤ 1 ∧ 16 ≤ 16) ∧
    ¬ (((msg 16).length = 16 ∨ (msg 16).length = 32) ∧ 1 ≤ 0 ∧ 0 ≤ 16) ∧
    ¬ (((msg 16).length = 16 ∨ (msg 16).length = 32) ∧ 1 ≤ 17 ∧ 17 ≤ 16) ∧
    ¬ (((msg 24).length = 16 ∨ (msg 24).length = 32) ∧ 1 ≤ 16 ∧ 16 ≤ 16) := by decide

theorem witness_no_instance : State.reset.seq = .idle ∧ ({ State.reset with seq := .finalized } : State).seq = .finalized :=
  ⟨rfl, rfl⟩

/-- UPDATE with no transaction at the end of the range (16 bytes), and with one (17 bytes). -/
theorem witness_update_counts :
    ((ready [] []).buf.length + (msg 16).length + 15) / 16 - 1 = 0 ∧ (ready [] []).portAnswers 0 ∧
    ((ready (msg 16) [.answers]).buf.length + (msg 1).length + 15) / 16 - 1 = 1 ∧
    (ready (msg 16) [.answers]).portAnswers 1 ∧ (ready (msg 16) [.answers]).buf.length ≤ 16 ∧
    (ready (msg 16) [.answers]).seq = .ready :=
  ⟨by decide, witness_portAnswers_zero _, by decide, witness_portAnswers_one _, by decide, rfl⟩

theorem witness_update_parts : (ready [] [.answers]).seq = .ready ∧ (ready [] [.answers]).buf = [] ∧
    ([msg 16, msg 1].flatten.length + 15) / 16 - 1 = 1 ∧ (ready [] [.answers]).portAnswers 1 :=
  ⟨rfl, rfl, by decide, witness_portAnswers_one _⟩

theorem witness_update_failure : 0 < ((ready (msg 16) [.fails]).buf.length + (msg 1).length + 15) / 16 - 1 ∧
    (ready (msg 16) [.fails]).portAnswers 0 ∧ (ready (msg 16) [.fails]).fateAt 0 = .fails ∧
    (ready (msg 16) [.fails]).buf.length ≤ 16 :=
  ⟨by decide, witness_portAnswers_zero _, rfl, by decide⟩

theorem witness_hangs :
    (0 < ((ready (msg 16) [.silent]).buf.length + (msg 1).length + 15) / 16 - 1 ∧
      (ready (msg 16) [.silent]).portAnswers 0 ∧ (ready (msg 16) [.silent]).fateAt 0 = .silent) ∧
    ((ready [] [.answers, .silent]).skvalid = false ∧ (ready [] [.answers, .silent]).fateAt 0 = .answers ∧
      (ready [] [.answers, .silent]).fateAt 1 = .silent) :=
  ⟨⟨by decide, witness_portAnswers_zero _, rfl⟩, rfl, rfl, rfl⟩

/-- UPDATE answers in each of the three ways of its frame. -/
theorem witness_update_answers : (∃ t, exec (.update (msg 1)) (ready [] []) = .next t) ∧
    (∃ t, exec (.update (msg 1)) State.reset = .next t) ∧
    (∃ t, exec (.update (msg 1)) (ready (msg 16) [.fails]) = .next t) := ⟨⟨_, rfl⟩, ⟨_, rfl⟩, ⟨_, rfl⟩⟩

theorem witness_full_buffer : (ready (msg 16) []).buf.length ≤ 16 := by decide

/-- The empty message in progress, and a payload of 17 bytes with one answer coming. -/
theorem witness_absorbed : (ready [] [.answers]).Absorbed Config.encrypt [] ∧
    (([] : Bytes).length + (msg 17).length + 15) / 16 - 1 - ((([] : Bytes).length + 15) / 16 - 1) = 1 ∧
    (ready [] [.answers]).portAnswers 1 :=
  ⟨⟨rfl, rfl, rfl, rfl⟩, by decide, witness_portAnswers_one _⟩

/-- FINALIZE with the subkeys to derive, and with them there. -/
theorem witness_finalize_hypotheses :
    ((ready [] [.answers, .answers]).skvalid = false ∧ (ready [] [.answers, .answers]).portAnswers 2) ∧
    (({ ready (msg 16) [.answers] with skvalid := true } : State).skvalid = true ∧
      ({ ready (msg 16) [.answers] with skvalid := true } : State).portAnswers 1) :=
  ⟨⟨rfl, witness_portAnswers_two _⟩, rfl, witness_portAnswers_one (msg 16)⟩

/-- The three ways a FINALIZE meets a port failure. -/
theorem witness_finalize_failures :
    ((ready [] [.fails]).skvalid = false ∧ (ready [] [.fails]).fateAt 0 = .fails) ∧
    ((ready [] [.answers, .fails]).skvalid = false ∧ (ready [] [.answers, .fails]).fateAt 0 = .answers ∧
      (ready [] [.answers, .fails]).fateAt 1 = .fails) ∧
    (({ ready (msg 16) [.fails] with skvalid := true } : State).skvalid = true ∧
      ({ ready (msg 16) [.fails] with skvalid := true } : State).fateAt 0 = .fails) :=
  ⟨⟨rfl, rfl⟩, ⟨rfl, rfl, rfl⟩, rfl, rfl⟩

/-- One chaining step on a full buffer, and one derivation, answered and failed. -/
theorem witness_single_transactions : (ready (msg 16) [.answers]).buf.length = 16 ∧
    (ready (msg 16) [.answers]).fateAt 0 = .answers ∧ (ready (msg 16) [.fails]).buf.length = 16 ∧
    (ready (msg 16) [.fails]).fateAt 0 = .fails := ⟨by decide, rfl, by decide, rfl⟩

theorem witness_finalize_answers : (∃ t, exec .finalize (ready (msg 16) [.answers, .answers]) = .next t) ∧
    (∃ t, exec .finalize State.reset = .next t) := ⟨⟨_, rfl⟩, ⟨_, rfl⟩⟩

theorem witness_truncation_sizes : (1 : Fin 32).val ≤ 16 ∧ (16 : Fin 32).val ≤ 16 ∧
    (ready [] [.answers, .answers]).portAnswers 2 := ⟨by decide, by decide, witness_portAnswers_two _⟩

/-- An instance over the empty message, and one message split in two ways. -/
theorem witness_instance : mockKey.length = 16 ∧ (msg 32).length = 32 ∧ cmacBlockCount [] + 1 = 2 ∧
    cmacBlockCount [msg 5, msg 11].flatten + 1 = 2 ∧ [msg 5, msg 11].flatten = [msg 5 ++ msg 11, []].flatten ∧
    (ready [] [.answers, .answers]).portAnswers 2 :=
  ⟨by decide, by decide, by decide, by decide, by decide, witness_portAnswers_two _⟩

theorem witness_nothing_starts : State.reset.seq ≠ .ready ∧
    ∀ i ∈ [Instr.new 17 mockKey, .update (msg 1), .finalize], startsInstance i = false := by decide

/-- A step that brings SEQ to FINALIZED. -/
theorem witness_becomes_finalized : ∃ (s t : State) (e : HostEvent) (es : List HostEvent), s.inbox = e :: es ∧
    step s = .next t ∧ s.seq ≠ .finalized ∧ t.seq = .finalized :=
  ⟨presented (ready [] [.answers, .answers]) (.command ⟨0x00000003#32, []⟩), _, _, _, rfl, rfl, by decide, rfl⟩

theorem witness_ready_stays : ∃ t, exec (.update (msg 1)) (ready [] []) = .next t ∧ (ready [] []).seq = .ready ∧
    t.seq = .ready ∧ startsInstance (.update (msg 1)) = false := ⟨_, rfl, rfl, rfl, rfl⟩

/-- A command from a state of the invariant that answers after two transactions. -/
theorem witness_command_from_inv : (ready (msg 16) [.answers, .answers]).Inv ∧
    ∃ t, runCommand ⟨0x00000003#32, []⟩ (ready (msg 16) [.answers, .answers]) = .next t ∧ t.portTrace.length = 2 :=
  ⟨witness_ready_inv, _, rfl, rfl⟩

theorem witness_priorities : decode ⟨0x00000003#32, [0x00#8]⟩ = .illegal .payloadNotEmpty ∧
    decode ⟨0x00000002#32, []⟩ = .instr (.update []) ∧ State.reset.seq ≠ .ready ∧
    decode ⟨0x00001101#32, mockKey⟩ = .instr (.new 17 mockKey) := by decide

/-- Two runs that differ in the message bytes alone. -/
theorem witness_same_lengths : sameLengths (.update (msg 2)) (.update [0#8, 0#8]) ∧
    (ready (msg 1) []).publiclyEqual (ready [0#8] []) := by
  refine ⟨by simp only [sameLengths]; decide, ⟨rfl, rfl, rfl, by decide, rfl, rfl, rfl⟩⟩

end Sys2Proof.Tests
end

/-! PROOFS. The scope rules of 00_scope.md: what a step adds to the two observations (R10, R36, R37), that the port
trace is honest (R5, R58), and the byte order of a block (R7). -/

namespace Sys2Proof.Machine

/-! ### The transactions of a command that answers -/

/-- Where the end of a command writes no port trace, the trace is the one the operation left. -/
theorem Op.finish_portTrace {α : Type} {x : Op α} {k : α → State → State} {t : State}
    (h : x.finish k = .next t) (hk : ∀ a u, (k a u).portTrace = u.portTrace) :
    t.portTrace = x.state.portTrace := by
  rcases Op.finish_next h with ⟨a, u, rfl, rfl⟩ | ⟨u, rfl, rfl⟩
  · exact hk a u
  · rfl

/-- An instruction that answers leaves the port trace of its work: the two readings of a command's transactions,
`exec` and `commandTxns`, agree. -/
theorem exec_portTrace {i : Instr} {s t : State} (h : exec i s = .next t) :
    t.portTrace = (commandWork Config.encrypt i s).portTrace := by
  cases i with
  | new n P => rcases execNew_next h with ⟨-, rfl⟩ | ⟨-, rfl⟩ <;> rfl
  | update P =>
    rw [exec_update, execUpdate, updateWith] at h
    rw [commandWork]
    split at h
    next hr => rw [if_pos hr]; exact Op.finish_portTrace h fun _ _ => rfl
    next hr => rw [if_neg hr]; cases h; rfl
  | finalize =>
    rw [exec_finalize, execFinalize, finalizeWith] at h
    rw [commandWork]
    split at h
    next hr => rw [if_pos hr]; exact Op.finish_portTrace h fun _ _ => rfl
    next hr => rw [if_neg hr]; cases h; rfl

/-! ### The port trace is honest -/

/-- The answer of a transaction, where there is one, is ENCRYPT of what was sent (R5, R58). -/
def PortTxn.Honest (e : PortTxn) : Prop := ∀ c, e.answer = .ok c → c = Config.encrypt e.key e.block

theorem PortTxn.honest_ok (k : Bytes) (b : Block) : PortTxn.Honest ⟨k, b, .ok (Config.encrypt k b)⟩ := by
  simp [PortTxn.Honest]

theorem PortTxn.honest_fail (k : Bytes) (b : Block) : PortTxn.Honest ⟨k, b, .fail⟩ := by
  simp [PortTxn.Honest]

theorem PortTxn.honest_unanswered (k : Bytes) (b : Block) : PortTxn.Honest ⟨k, b, .unanswered⟩ := by
  simp [PortTxn.Honest]

theorem State.traceHonest_iff (s : State) : s.traceHonest ↔ ∀ e ∈ s.portTrace, e.Honest := Iff.rfl

/-- Honesty is about the port trace alone. -/
theorem State.traceHonest_congr {s t : State} (h : t.portTrace = s.portTrace) : t.traceHonest ↔ s.traceHonest := by
  rw [State.traceHonest_iff, State.traceHonest_iff, h]

theorem State.traceHonest_append {s t : State} {es : List PortTxn} (h : t.portTrace = s.portTrace ++ es)
    (hs : s.traceHonest) (hes : ∀ e ∈ es, e.Honest) : t.traceHonest := by
  rw [State.traceHonest_iff, h]
  exact List.forall_mem_append.mpr ⟨hs, hes⟩

/-- The port answers with ENCRYPT of what was sent or not at all. -/
theorem portEncrypt_traceHonest (b : Block) {s : State} (hs : s.traceHonest) :
    (portEncrypt Config.encrypt b s).state.traceHonest := by
  rcases portEncrypt_cases Config.encrypt s b with ⟨-, e⟩ | ⟨-, e⟩ | ⟨-, e⟩ <;> rw [e]
  · exact State.traceHonest_append rfl hs (by simpa using PortTxn.honest_ok _ _)
  · exact State.traceHonest_append rfl hs (by simpa using PortTxn.honest_fail _ _)
  · exact State.traceHonest_append rfl hs (by simpa using PortTxn.honest_unanswered _ _)

/-- Sequencing keeps honesty where both operations do. -/
theorem Op.bind_traceHonest {α β : Type} {x : Op α} {f : α → State → Op β} (hx : x.state.traceHonest)
    (hf : ∀ a u, u.traceHonest → (f a u).state.traceHonest) : (x.bind f).state.traceHonest := by
  cases x with
  | done a u => exact hf a u hx
  | raised u => exact hx
  | hung u => exact hx

theorem processBlock_traceHonest {s : State} (hs : s.traceHonest) :
    (processBlock Config.encrypt s).state.traceHonest :=
  Op.bind_traceHonest (portEncrypt_traceHonest _ hs) fun _ _ hu => hu

theorem absorb_traceHonest (P : Bytes) {s : State} (hs : s.traceHonest) :
    (absorb Config.encrypt P s).state.traceHonest := by
  induction P generalizing s with
  | nil => exact hs
  | cons d ds ih =>
    rw [absorb]
    split
    · exact Op.bind_traceHonest (processBlock_traceHonest hs) fun _ _ hu => ih hu
    · exact ih hs

theorem deriveSubkeys_traceHonest {s : State} (hs : s.traceHonest) :
    (deriveSubkeys Config.encrypt s).state.traceHonest :=
  Op.bind_traceHonest (portEncrypt_traceHonest _ hs) fun _ _ hu => hu

theorem closeInstance_traceHonest {s : State} (hs : s.traceHonest) :
    (closeInstance Config.encrypt s).state.traceHonest :=
  Op.bind_traceHonest (portEncrypt_traceHonest _ hs) fun _ _ hu => hu

theorem finalizeBody_traceHonest {s : State} (hs : s.traceHonest) :
    (finalizeBody Config.encrypt s).state.traceHonest := by
  cases hv : s.skvalid with
  | true =>
    rw [finalizeBody_derived _ _ hv]
    exact closeInstance_traceHonest hs
  | false =>
    rw [finalizeBody_derives _ _ hv]
    exact Op.bind_traceHonest (deriveSubkeys_traceHonest hs) fun _ _ hu => closeInstance_traceHonest hu

/-- Whatever a command does, and however it ends, its work leaves an honest trace. -/
theorem commandWork_traceHonest (i : Instr) {s : State} (hs : s.traceHonest) :
    (commandWork Config.encrypt i s).traceHonest := by
  cases i with
  | new n P => exact hs
  | update P =>
    rw [commandWork]
    split
    · exact absorb_traceHonest P hs
    · exact hs
  | finalize =>
    rw [commandWork]
    split
    · exact finalizeBody_traceHonest hs
    · exact hs

theorem commandTxns_honest (c : Command) {s : State} (hs : s.traceHonest) :
    ∀ e ∈ commandTxns Config.encrypt c s, e.Honest := by
  intro e he
  rw [commandTxns] at he
  split at he
  next i _ => exact commandWork_traceHonest i hs e (List.mem_of_mem_drop he)
  next => exact absurd he List.not_mem_nil

/-- Settles O4: a step leaves the trace alone, or leaves that of a command's work, or adds the first transactions of
an abandoned command, and all of these are honest because the port is the only place an answer comes from. -/
theorem portTraceHoldsEncryptValues : Obligations.PortTraceHoldsEncryptValues := by
  unfold Obligations.PortTraceHoldsEncryptValues
  intro s t hs h
  have hw (es : List HostEvent) : (s.withInbox es).traceHonest := hs
  rcases step_next h with ⟨-, rfl⟩ | ⟨c, es, i, -, -, hx⟩ | ⟨c, es, w, -, -, rfl⟩ | ⟨es, -, rfl⟩ |
    ⟨c, n, es, -, rfl⟩
  · exact hs
  · exact (State.traceHonest_congr (exec_portTrace hx)).mpr (commandWork_traceHonest i (hw es))
  · exact hs
  · exact hs
  · exact State.traceHonest_append rfl hs fun e he => commandTxns_honest c (hw es) e (List.mem_of_mem_take he)

/-! ### The observations only grow -/

/-- `t` has the observations of `s` with `rs` and `es` added, its draws moved past `es`, and the same host events to
come (R10, R36, R37). -/
structure State.Adds (s t : State) (rs : List Response) (es : List PortTxn) : Prop where
  responses : t.responses = s.responses ++ rs
  portTrace : t.portTrace = s.portTrace ++ es
  portCount : t.portCount = s.portCount + es.length
  portPlan : t.portPlan = s.portPlan.drop es.length
  inbox : t.inbox = s.inbox

/-- A response is all that `respond` adds. -/
theorem State.adds_respond (s : State) (st : Status) (r : Bytes) : s.Adds (s.respond st r) [⟨st, r⟩] [] :=
  ⟨rfl, by simp, rfl, rfl, rfl⟩

/-- An instruction that answers adds exactly one response (R36, R50). -/
theorem exec_adds {i : Instr} {s t : State} (h : exec i s = .next t) : ∃ r es, s.Adds t [r] es := by
  cases i with
  | new n P =>
    obtain ⟨-, rfl⟩ | ⟨-, rfl⟩ := execNew_next h
    · exact ⟨_, [], rfl, by simp, rfl, rfl, rfl⟩
    · exact ⟨_, _, s.adds_respond _ _⟩
  | update P =>
    obtain ⟨-, rfl⟩ | ⟨-, C, B, es, -, -, rfl⟩ | ⟨-, C, B, es, -, -, rfl⟩ := execUpdate_next h
    · exact ⟨_, _, s.adds_respond _ _⟩
    · exact ⟨_, es, rfl, rfl, rfl, rfl, rfl⟩
    · exact ⟨_, es, rfl, rfl, rfl, rfl, rfl⟩
  | finalize =>
    obtain ⟨-, rfl⟩ | ⟨-, tag, u, es, -, -, -, rfl⟩ | ⟨-, u, es, -, -, -, rfl⟩ := execFinalize_next h
    · exact ⟨_, _, s.adds_respond _ _⟩
    · exact ⟨_, es, rfl, rfl, rfl, rfl, rfl⟩
    · exact ⟨_, es, rfl, rfl, rfl, rfl, rfl⟩

/-- What a step adds, once its event is taken from the host's stream: one response to a presented command, and no
response otherwise. -/
theorem step_adds {s t : State} (h : step s = .next t) :
    (∃ c es r txns, s.inbox = .command c :: es ∧ (s.withInbox es).Adds t [r] txns) ∨
    ((∀ c es, s.inbox ≠ .command c :: es) ∧ ∃ txns, (s.withInbox (s.inbox.drop 1)).Adds t [] txns) := by
  rcases step_next h with ⟨hi, rfl⟩ | ⟨c, es, i, hi, -, hx⟩ | ⟨c, es, w, hi, -, rfl⟩ | ⟨es, hi, rfl⟩ |
    ⟨c, n, es, hi, rfl⟩
  · exact .inr ⟨by simp [hi], [], by simp, by simp, rfl, rfl, by simp [hi]⟩
  · obtain ⟨r, txns, ha⟩ := exec_adds hx
    exact .inl ⟨c, es, r, txns, hi, ha⟩
  · exact .inl ⟨c, es, _, _, hi, State.adds_respond _ _ _⟩
  · exact .inr ⟨by simp [hi], [], by simp, by simp, rfl, rfl, by simp [hi]⟩
  · exact .inr ⟨by simp [hi], _, by simp, rfl, rfl, rfl, by simp [hi]⟩

/-- Settles O19, from what a step adds to each observation by the event it takes. -/
theorem observationsOnlyGrow : Obligations.ObservationsOnlyGrow := by
  unfold Obligations.ObservationsOnlyGrow
  intro s t h
  rcases step_adds h with ⟨c, es, r, txns, hi, hr, ht, hc, hp, hin⟩ | ⟨hno, txns, hr, ht, hc, hp, hin⟩
  · refine ⟨[r], txns, hr, ht, hc, hp, by simpa [hi] using hin, fun _ => rfl, fun hn => ?_⟩
    exact absurd ⟨c, by simp [hi]⟩ hn
  · refine ⟨[], txns, hr, ht, hc, hp, hin, fun ⟨c, hc'⟩ => ?_, fun _ => rfl⟩
    obtain ⟨es, hi⟩ := List.head?_eq_some_iff.mp hc'
    exact absurd hi (hno c es)

end Sys2Proof.Machine

namespace Sys2Proof

/-! ### The bytes of a block -/

/-- A byte shifted in below a value that leaves room for it. -/
theorem appendByte_toNat (acc : Block) (b : Byte) (h : acc.toNat < 2 ^ 120) :
    ((acc <<< 8) ||| b.setWidth 128).toNat = acc.toNat * 2 ^ 8 + b.toNat := by
  have hb : b.toNat < 2 ^ 8 := b.isLt
  have hs : (acc <<< 8).toNat = 2 ^ 8 * acc.toNat := by
    rw [BitVec.toNat_shiftLeft, Nat.shiftLeft_eq]; omega
  have hw : (b.setWidth 128).toNat = b.toNat := by
    rw [BitVec.toNat_setWidth]; omega
  rw [BitVec.toNat_or, hs, hw, ← Nat.two_pow_add_eq_or_of_lt hb, Nat.mul_comm]

/-- Bytes shifted in below a value of `k` bits: each byte has the weight of the bytes after it (R7). -/
theorem foldl_bytes_toNat (bs : Bytes) (acc : Block) (k : Nat) (hacc : acc.toNat < 2 ^ k)
    (hk : k + 8 * bs.length ≤ 128) :
    (bs.foldl (fun (a : Block) (b : Byte) => (a <<< 8) ||| b.setWidth 128) acc).toNat =
      acc.toNat * 2 ^ (8 * bs.length) +
        ((List.range bs.length).map fun i => (bs.getD i 0).toNat * 2 ^ (8 * (bs.length - 1 - i))).sum := by
  induction bs generalizing acc k with
  | nil => simp
  | cons b bs ih =>
    rw [List.length_cons] at hk
    have hroom : acc.toNat < 2 ^ 120 := hacc.trans_le (Nat.pow_le_pow_right (by omega) (by omega))
    have happ := appendByte_toNat acc b hroom
    have hnew : ((acc <<< 8) ||| b.setWidth 128).toNat < 2 ^ (k + 8) := by
      have hb := b.isLt
      rw [happ, Nat.pow_add]; omega
    have hshift (i : Nat) : bs.length - 1 - i = bs.length - (i + 1) := by omega
    have hpow : 2 ^ (8 * (bs.length + 1)) = 2 ^ 8 * 2 ^ (8 * bs.length) := by
      rw [← Nat.pow_add, Nat.mul_succ, Nat.add_comm]
    rw [List.foldl_cons, ih _ (k + 8) hnew (by omega), happ, List.length_cons, List.range_succ_eq_map]
    simp only [List.map_cons, List.map_map, Function.comp_def, List.sum_cons, List.getD_cons_zero,
      List.getD_cons_succ, Nat.succ_eq_add_one, Nat.add_sub_cancel, Nat.sub_zero, hshift, hpow]
    ring

/-- `blk` gives the base-256 value of its sixteen bytes, byte 0 the most significant (R7). -/
theorem Block.ofBytes_toNat (bs : Bytes) (h : bs.length = 16) :
    (Block.ofBytes bs).toNat = ((List.range 16).map fun i => (bs.getD i 0).toNat * 2 ^ (8 * (15 - i))).sum := by
  rw [Block.ofBytes, foldl_bytes_toNat bs 0#128 0 (by simp) (by omega), h]
  simp

theorem Block.toBytes_getElem (B : Block) (i : Nat) (h : i < (Block.toBytes B).length) :
    (Block.toBytes B)[i] = Block.byte B i := by
  simp [Block.toBytes]

/-- Byte `i` of the block of sixteen bytes is byte `i` of the sequence (R7). -/
theorem Block.byte_ofBytes (bs : Bytes) (h : bs.length = 16) (i : Nat) (hi : i < 16) :
    Block.byte (Block.ofBytes bs) i = bs.getD i 0 := by
  apply BitVec.eq_of_getLsbD_eq
  intro j hj
  have hbyte : 15 - (8 * (15 - i) + j) / 8 = i := by omega
  have hbit : (8 * (15 - i) + j) % 8 = j := by omega
  rw [Block.byte_getLsbD _ i j hj, Block.ofBytes_getLsbD bs h _ (by omega), hbyte, hbit]

theorem Block.toBytes_ofBytes (bs : Bytes) (h : bs.length = 16) : Block.toBytes (Block.ofBytes bs) = bs := by
  apply List.ext_getElem (by simp [h])
  intro i _ hi
  rw [Block.toBytes_getElem, Block.byte_ofBytes bs h i (by omega), List.getD_eq_getElem _ _ hi]

theorem Block.ofBytes_toBytes (B : Block) : Block.ofBytes (Block.toBytes B) = B := by
  apply BitVec.eq_of_getLsbD_eq
  intro j hj
  have hbit : 8 * (15 - (15 - j / 8)) + j % 8 = j := by omega
  have hi : 15 - j / 8 < (Block.toBytes B).length := by rw [Block.toBytes_length]; omega
  rw [Block.ofBytes_getLsbD _ (Block.toBytes_length B) j hj, List.getD_eq_getElem _ _ hi, Block.toBytes_getElem,
    Block.byte_getLsbD B _ _ (by omega), hbit]

/-- Settles O12, by the base-256 value of the fold and a comparison of the bits of each byte. -/
theorem blockBytesAreBigEndian : Obligations.BlockBytesAreBigEndian := by
  unfold Obligations.BlockBytesAreBigEndian
  exact ⟨fun bs h => ⟨Block.ofBytes_toNat bs h, Block.toBytes_ofBytes bs h⟩,
    fun B => ⟨Block.toBytes_length B, Block.ofBytes_toBytes B⟩⟩

end Sys2Proof

/-! PROOFS. The state rules of 10_state.md: every answer of a command in one case analysis, and from it the invariant
of the registers (R13 to R17, R24), the LifecycleFlag (R23), the parameters of R18 and R34, and the message the
registers stand for (R22, R85). -/

namespace Sys2Proof.Machine

/-! ### Every answer of a command -/

/-- Absorb never buffers more than a block, however it ends (R16). -/
theorem absorb_buf_length_le (enc : Cipher) (P : Bytes) (s : State) (hb : s.buf.length ≤ 16) :
    (absorb enc P s).state.buf.length ≤ 16 := by
  induction P generalizing s with
  | nil => exact hb
  | cons d ds ih =>
    by_cases hf : s.buf.length = 16
    · cases h : s.fateAt 0 with
      | answers =>
        rw [absorb_full enc s d ds hf h]
        exact ih _ (by simp)
      | fails => rw [absorb_full_fails enc s d ds hf h]; exact hb
      | silent => rw [absorb_full_silent enc s d ds hf h]; exact hb
    · rw [absorb_push enc s d ds hf]
      exact ih _ (by simp; omega)

/-- How a command, by what it decodes to, answers from `s`: it loads a new key (R101), reports an error that changes
no register (R111 to R113), absorbs a payload (R102), or ends with a tag or a CipherError and zeroizes (R103, R116). -/
inductive Answer (s : State) : Decoded → State → Prop where
  | started {n : Nat} {P : Bytes} (hv : newArgsValid n P = true) :
      Answer s (.instr (.new n P)) ((s.loadInstance n P).respond .ok [])
  | refused {d : Decoded} {e : ErrorCause} (he : e ≠ .cipherError) : Answer s d (s.respond (.error e) [])
  | absorbed {P : Bytes} {C : Block} {B : Bytes} {es : List PortTxn} (hr : s.seq = .ready)
      (hb : s.buf.length ≤ 16 → B.length ≤ 16) (hk : ∀ e ∈ es, e.key = s.keyBytes) :
      Answer s (.instr (.update P)) (((s.setChain C B).logTxns es).respond .ok [])
  | ended {d : Decoded} {st : Status} {tag : Bytes} {es : List PortTxn} (hr : s.seq = .ready)
      (hst : st = .error .cipherError ∨ (st = .ok ∧ d = .instr .finalize)) (hk : ∀ e ∈ es, e.key = s.keyBytes) :
      Answer s d ((s.logTxns es).terminate.respond st tag)

theorem exec_answer {i : Instr} {s t : State} (h : exec i s = .next t) : Answer s (.instr i) t := by
  cases i with
  | new n P =>
    obtain ⟨hv, rfl⟩ | ⟨-, rfl⟩ := execNew_next h
    · exact .started hv
    · exact .refused (by decide)
  | update P =>
    obtain ⟨-, rfl⟩ | ⟨hr, C, B, es, hk, hx, rfl⟩ | ⟨hr, C, B, es, hk, -, rfl⟩ := execUpdate_next h
    · exact .refused (by decide)
    · refine .absorbed hr (fun hb => ?_) hk
      simpa [hx] using absorb_buf_length_le Config.encrypt P s hb
    · exact .ended hr (.inl rfl) hk
  | finalize =>
    obtain ⟨-, rfl⟩ | ⟨hr, tag, u, es, -, hk, -, rfl⟩ | ⟨hr, u, es, -, hk, -, rfl⟩ := execFinalize_next h
    · exact .refused (by decide)
    · exact .ended hr (.inr ⟨rfl, rfl⟩) hk
    · exact .ended hr (.inl rfl) hk

theorem runCommand_answer {c : Command} {s t : State} (h : runCommand c s = .next t) : Answer s (decode c) t := by
  cases hd : decode c with
  | instr i =>
    simp only [runCommand, hd] at h
    exact exec_answer h
  | illegal w =>
    simp only [runCommand, hd] at h
    cases h
    exact .refused (by decide)

/-- Every step that answers a next state, with the reset input between commands and during one as one case. -/
theorem step_answer {s t : State} (h : step s = .next t) :
    (s.inbox = [] ∧ t = s) ∨
    (∃ c es, s.inbox = .command c :: es ∧ Answer (s.withInbox es) (decode c) t) ∨
    (∃ e es txns, s.inbox = e :: es ∧ (e = .reset ∨ ∃ c n, e = .commandCutByReset c n) ∧
      t = (s.withInbox es).abandonCommand txns) := by
  obtain hw | ⟨c, es, i, hi, hd, hx⟩ | ⟨c, es, w, hi, -, rfl⟩ | ⟨es, hi, rfl⟩ | ⟨c, n, es, hi, rfl⟩ := step_next h
  · exact .inl hw
  · exact .inr (.inl ⟨c, es, hi, hd ▸ exec_answer hx⟩)
  · exact .inr (.inl ⟨c, es, hi, .refused (by decide)⟩)
  · exact .inr (.inr ⟨_, es, [], hi, .inl rfl, by simp [State.abandonCommand]⟩)
  · exact .inr (.inr ⟨_, es, _, hi, .inr ⟨c, n, rfl⟩, rfl⟩)

/-! ### The invariant of the registers -/

/-- Outside READY the invariant is that every data register is zero. -/
theorem State.inv_of_zeroed {s : State} (hr : s.seq ≠ .ready) (hz : s.zeroed = true) : s.Inv := by
  rw [State.Inv, if_neg hr]; exact hz

theorem State.inv_iff_instanceOk {s : State} (hr : s.seq = .ready) : s.Inv ↔ s.instanceOk = true := by
  rw [State.Inv, if_pos hr]

/-- The registers that READY asks for, as statements (R13, R14, R16, R17, R94). -/
theorem State.instanceOk_iff (s : State) : s.instanceOk = true ↔
    (s.keylen.val = 16 ∨ s.keylen.val = 32) ∧ s.key.toList.drop s.keylen.val = zeroBytes (32 - s.keylen.val) ∧
      1 ≤ s.tagsize.val ∧ s.tagsize.val ≤ 16 ∧ s.buf.length ≤ 16 ∧ s.skvalid = false ∧ s.k1 = 0#128 ∧
      s.k2 = 0#128 := by
  simp only [State.instanceOk, Bool.and_eq_true, decide_eq_true_eq, and_assoc]
  simp [Config.keyLengths, Config.tagMin, Config.tagMax, Config.blockBytes]

/-! The invariant speaks of registers alone. -/

@[simp] theorem State.respond_inv (s : State) (st : Status) (r : Bytes) : (s.respond st r).Inv ↔ s.Inv := Iff.rfl
@[simp] theorem State.withInbox_inv (s : State) (es : List HostEvent) : (s.withInbox es).Inv ↔ s.Inv := Iff.rfl
@[simp] theorem State.logTxns_inv (s : State) (es : List PortTxn) : (s.logTxns es).Inv ↔ s.Inv := Iff.rfl

theorem State.terminate_inv (s : State) : s.terminate.Inv := State.inv_of_zeroed (by simp) (by simp [State.zeroed])

theorem State.resetInput_inv (s : State) : s.resetInput.Inv := State.inv_of_zeroed (by simp) (by simp [State.zeroed])

/-- Valid arguments fit the registers they are written to. -/
theorem loadInstance_lengths {n : Nat} {P : Bytes} (hv : newArgsValid n P = true) :
    (Fin.ofNat 64 P.length).val = P.length ∧ (Fin.ofNat 32 n).val = n := by
  obtain ⟨hP, -, hn⟩ := (newArgsValid_iff n P).mp hv
  exact ⟨Nat.mod_eq_of_lt (by omega), Nat.mod_eq_of_lt (by omega)⟩

theorem State.loadInstance_inv (s : State) {n : Nat} {P : Bytes} (hv : newArgsValid n P = true) :
    (s.loadInstance n P).Inv := by
  obtain ⟨hP, hn1, hn⟩ := (newArgsValid_iff n P).mp hv
  obtain ⟨ek, et⟩ := loadInstance_lengths hv
  rw [State.inv_iff_instanceOk rfl, State.instanceOk_iff]
  simp only [State.loadInstance_keylen, State.loadInstance_key, State.loadInstance_tagsize, ek, et]
  exact ⟨hP, by simp [keyRegister_toList P (by omega)], hn1, hn, by simp, rfl, rfl, rfl⟩

/-- In READY the accumulator keeps the invariant as long as it buffers at most a block. -/
theorem State.setChain_inv {s : State} {C : Block} {B : Bytes} (hr : s.seq = .ready)
    (hB : s.buf.length ≤ 16 → B.length ≤ 16) (h : s.Inv) : (s.setChain C B).Inv := by
  rw [State.inv_iff_instanceOk hr, State.instanceOk_iff] at h
  rw [State.inv_iff_instanceOk (by simpa using hr), State.instanceOk_iff]
  obtain ⟨hkl, hkey, ht1, ht, hb, hsk⟩ := h
  exact ⟨hkl, hkey, ht1, ht, hB hb, hsk⟩

theorem Answer.keeps_inv {s t : State} {d : Decoded} (h : Answer s d t) (hs : s.Inv) : t.Inv := by
  cases h with
  | started hv => exact s.loadInstance_inv hv
  | refused _ => exact hs
  | absorbed hr hb _ => simpa using State.setChain_inv hr hb hs
  | ended _ _ _ => exact (State.respond_inv _ _ _).mpr (State.terminate_inv _)

/-- Settles O3: a step waits, resets, or gives one of a command's answers, and each of these keeps the invariant. -/
theorem stepKeepsInvariant : Obligations.StepKeepsInvariant := by
  unfold Obligations.StepKeepsInvariant
  intro s t hs h
  obtain ⟨-, rfl⟩ | ⟨c, es, -, ha⟩ | ⟨e, es, txns, -, -, rfl⟩ := step_answer h
  · exact hs
  · exact ha.keeps_inv hs
  · exact State.resetInput_inv (s.withInbox es)

/-- Settles O2: SEQ is IDLE at reset, and every data register is zero. -/
theorem resetMeetsInvariant : Obligations.ResetMeetsInvariant := by
  unfold Obligations.ResetMeetsInvariant
  exact State.inv_of_zeroed (by decide) (by decide)

/-! ### FINALIZED and the LifecycleFlag -/

/-- Only a finished FINALIZE and a CipherError bring SEQ to FINALIZED, and both clear every data register. -/
theorem Answer.eq_terminate_of_finalized {s t : State} {d : Decoded} (h : Answer s d t) (hs : s.seq ≠ .finalized)
    (ht : t.seq = .finalized) : ∃ (u : State) (st : Status) (r : Bytes), t = u.terminate.respond st r := by
  cases h with
  | started hv => simp at ht
  | refused _ => exact absurd ht hs
  | absorbed _ _ _ => exact absurd ht hs
  | ended _ _ _ => exact ⟨_, _, _, rfl⟩

/-- Settles O44: the only steps that bring SEQ to FINALIZED are those that zeroize. -/
theorem finalizedMeansZeroized : Obligations.FinalizedMeansZeroized := by
  unfold Obligations.FinalizedMeansZeroized
  intro s t h hs ht
  obtain ⟨-, rfl⟩ | ⟨c, es, -, ha⟩ | ⟨e, es, txns, -, -, rfl⟩ := step_answer h
  · exact absurd ht hs
  · obtain ⟨u, st, r, rfl⟩ := ha.eq_terminate_of_finalized hs ht
    simp
  · simp at ht

theorem State.lifecycleFlag_iff (s : State) : s.lifecycleFlag = true ↔ s.seq = .finalized := by
  simp [State.lifecycleFlag]

/-- R23 for one command: its answer sets the flag by a CipherError or a finished FINALIZE, and clears it by a
successful NEW. -/
theorem Answer.lifecycleFlag_iff {s t : State} {d : Decoded} (h : Answer s d t) :
    t.lifecycleFlag = true ↔
      ((∃ r, t.responses = s.responses ++ [r] ∧ (r.status = .error .cipherError ∨
          (r.status = .ok ∧ d = .instr .finalize))) ∨
        (s.lifecycleFlag = true ∧
          ¬ ∃ size key, d = .instr (.new size key) ∧ t.responses = s.responses ++ [⟨.ok, []⟩])) := by
  cases h with
  | started hv => simp [State.lifecycleFlag_iff]
  | refused he => simp [State.lifecycleFlag_iff, he]
  | absorbed hr _ _ => simp [State.lifecycleFlag_iff, hr]
  | ended hr hst _ => simp [State.lifecycleFlag_iff, hr, hst]

/-- Settles O45: for a command this is R23 of its answer, and a reset gives no response and clears the flag. -/
theorem lifecycleFlagEvents : Obligations.LifecycleFlagEvents := by
  unfold Obligations.LifecycleFlagEvents
  intro s t e es hi h
  obtain ⟨hn, -⟩ | ⟨c, es', hi', ha⟩ | ⟨e', es', txns, hi', hreset, rfl⟩ := step_answer h
  · simp [hn] at hi
  · obtain ⟨rfl, rfl⟩ : e = .command c ∧ es = es' := by simpa [hi] using hi'
    simpa [State.lifecycleFlag_iff] using ha.lifecycleFlag_iff
  · obtain ⟨rfl, rfl⟩ : e = e' ∧ es = es' := by simpa [hi] using hi'
    obtain rfl | ⟨c, n, rfl⟩ := hreset <;> simp [State.lifecycleFlag_iff]

/-! ### Key, tag size and subkeys in READY -/

/-- Settles O46: while READY lasts a command other than a valid NEW writes at most the accumulator. -/
theorem instanceParametersAreImmutable : Obligations.InstanceParametersAreImmutable := by
  unfold Obligations.InstanceParametersAreImmutable
  intro i s t h _ ht hi
  cases exec_answer h with
  | started hv => simp [startsInstance, hv] at hi
  | refused _ => simp
  | absorbed _ _ _ => simp
  | ended _ _ _ => simp at ht

/-- A request is made in READY only, and carries the key bytes in the registers. -/
theorem Answer.request_key {s t : State} {d : Decoded} (h : Answer s d t) :
    ∀ e ∈ t.portTrace.drop s.portTrace.length, s.seq = .ready ∧ e.key = s.keyBytes := by
  cases h with
  | started _ => simp
  | refused _ => simp
  | absorbed hr _ hk => simpa [hr] using hk
  | ended hr _ hk => simpa [hr] using hk

/-- In READY the key bytes sent are 16 or 32, as many as KEYLEN says (R13). -/
theorem State.Inv.keyBytes_length {s : State} (h : s.Inv) (hr : s.seq = .ready) :
    s.keyBytes.length = s.keylen.val ∧ (s.keyBytes.length = 16 ∨ s.keyBytes.length = 32) := by
  rw [State.inv_iff_instanceOk hr, State.instanceOk_iff] at h
  obtain ⟨hkl, -⟩ := h
  have e : s.keyBytes.length = s.keylen.val := by simp [State.keyBytes]; omega
  exact ⟨e, e ▸ hkl⟩

/-- Settles O48, from the key of a request and the invariant in READY. -/
theorem everyRequestCarriesTheKey : Obligations.EveryRequestCarriesTheKey := by
  unfold Obligations.EveryRequestCarriesTheKey
  intro c s t hs h e he
  obtain ⟨hr, hk⟩ := (runCommand_answer h).request_key e he
  rw [hk]
  exact ⟨rfl, hs.keyBytes_length hr⟩

/-! ### The message that the registers stand for -/

theorem State.loadInstance_keyBytes (s : State) {n : Nat} {P : Bytes} (hv : newArgsValid n P = true) :
    (s.loadInstance n P).keyBytes = P := by
  obtain ⟨hP, -⟩ := (newArgsValid_iff n P).mp hv
  obtain ⟨ek, -⟩ := loadInstance_lengths hv
  rw [State.keyBytes, State.loadInstance_key, State.loadInstance_keylen, ek, keyRegister_toList P (by omega)]
  simp

/-- R22 as an equation: the chained blocks and the buffered bytes make up the message. -/
theorem blockCount_bufLenAfter (N : Nat) : 16 * (blockCount N - 1) + bufLenAfter N = N := by
  simp only [blockCount, bufLenAfter]; split <;> omega

theorem bufLenAfter_le (N : Nat) : bufLenAfter N ≤ 16 := by
  simp only [bufLenAfter]; split <;> omega

theorem bufLenAfter_pos {N : Nat} (h : N ≠ 0) : 1 ≤ bufLenAfter N := by
  simp only [bufLenAfter, if_neg h]; omega

/-- R84: an UPDATE of `p` bytes on a message of `N` bytes chains the blocks by which the deferred last one moves. -/
theorem absorbTxnCount_bufLenAfter (N p : Nat) :
    blockCount N - 1 + absorbTxnCount (bufLenAfter N) p = blockCount (N + p) - 1 := by
  simp only [absorbTxnCount, blockCount, bufLenAfter]; split <;> omega

theorem messageBlock_append (M P : Bytes) (j : Nat) (h : 16 * (j + 1) ≤ M.length) :
    messageBlock (M ++ P) j = messageBlock M j := by
  simp only [messageBlock, slice]
  rw [List.drop_append_of_le_length (by omega), List.take_append_of_le_length (by simp; omega)]

theorem messageBlock_drop (D : Bytes) (q j : Nat) : messageBlock (D.drop (16 * q)) j = messageBlock D (q + j) := by
  have hlen : 16 * (q + j) + 16 - 16 * (q + j) = 16 * j + 16 - 16 * j := by omega
  simp only [messageBlock, slice, List.drop_drop, hlen, ← Nat.mul_add]

/-- The chain over the blocks of a message does not see the bytes after them. -/
theorem chainFrom_append_left (enc : Cipher) (k : Bytes) (C : Block) (M P : Bytes) (q : Nat) (h : 16 * q ≤ M.length) :
    chainFrom enc k C (M ++ P) q = chainFrom enc k C M q := by
  induction q with
  | zero => rfl
  | succ q ih => rw [chainFrom, chainFrom, ih (by omega), messageBlock_append M P q h]

/-- A chain of `q + n` blocks is one of `q` blocks continued over the rest (R85). -/
theorem chainFrom_add (enc : Cipher) (k : Bytes) (C : Block) (D : Bytes) (q n : Nat) :
    chainFrom enc k C D (q + n) = chainFrom enc k (chainFrom enc k C D q) (D.drop (16 * q)) n := by
  induction n with
  | zero => rfl
  | succ n ih => rw [← Nat.add_assoc, chainFrom, chainFrom, ih, messageBlock_drop]

/-- The message in the registers, with the deferred last block named by R84's count: all blocks but the last are
chained, and what follows them is buffered (R83, R85). -/
theorem State.absorbed_iff (enc : Cipher) (s : State) (M : Bytes) : s.Absorbed enc M ↔
    s.seq = .ready ∧ s.buf = M.drop (16 * (blockCount M.length - 1)) ∧
      s.cv = chainFrom enc s.keyBytes 0#128 M (blockCount M.length - 1) := by
  have hM := blockCount_bufLenAfter M.length
  have hdrop : M.length - bufLenAfter M.length = 16 * (blockCount M.length - 1) := by omega
  have hdiv : (M.length - bufLenAfter M.length) / 16 = blockCount M.length - 1 := by omega
  constructor
  · rintro ⟨hr, hl, hb, hc⟩
    rw [hl, hdrop] at hb
    rw [hl, hdiv] at hc
    exact ⟨hr, hb, hc⟩
  · rintro ⟨hr, hb, hc⟩
    have hl : s.buflen = bufLenAfter M.length := by rw [State.buflen, hb, List.length_drop]; omega
    exact ⟨hr, hl, by rw [hl, hdrop, hb], by rw [hl, hdiv, hc]⟩

/-- A response is no part of the message. -/
theorem State.respond_absorbed (enc : Cipher) (s : State) (st : Status) (r : Bytes) (M : Bytes) :
    (s.respond st r).Absorbed enc M ↔ s.Absorbed enc M := by
  rw [State.absorbed_iff, State.absorbed_iff]
  rfl

theorem State.Absorbed.buf_length {enc : Cipher} {s : State} {M : Bytes} (h : s.Absorbed enc M) :
    s.buf.length = bufLenAfter M.length := h.buflen

/-- After a valid NEW the registers stand for the empty message (R101). -/
theorem State.loadInstance_absorbed (enc : Cipher) (s : State) (n : Nat) (P : Bytes) :
    (s.loadInstance n P).Absorbed enc [] :=
  (State.absorbed_iff enc _ _).mpr ⟨rfl, rfl, rfl⟩

/-- Chaining on from the registers of `M` over the buffered bytes and `P` gives the registers of `M ++ P` (R85). -/
theorem State.Absorbed.chained {enc : Cipher} {s : State} {M : Bytes} (h : s.Absorbed enc M) (P : Bytes)
    (es : List PortTxn) : (s.chained enc (s.buf ++ P) (absorbTxnCount s.buf.length P.length)
      ((s.buf ++ P).drop (16 * absorbTxnCount s.buf.length P.length)) es).Absorbed enc (M ++ P) := by
  have hl := h.buf_length
  obtain ⟨hr, hb, hc⟩ := (State.absorbed_iff enc s M).mp h
  have hle : 16 * (blockCount M.length - 1) ≤ M.length := by have := blockCount_bufLenAfter M.length; omega
  have hD : s.buf ++ P = (M ++ P).drop (16 * (blockCount M.length - 1)) := by
    rw [hb, List.drop_append_of_le_length hle]
  have hcv : s.cv = chainFrom enc s.keyBytes 0#128 (M ++ P) (blockCount M.length - 1) := by
    rw [hc, chainFrom_append_left enc _ _ _ _ _ hle]
  refine (State.absorbed_iff enc _ _).mpr ⟨hr, ?_, ?_⟩
  · rw [List.length_append, ← absorbTxnCount_bufLenAfter, Nat.mul_add, ← List.drop_drop, ← hD, ← hl]
    rfl
  · rw [List.length_append, ← absorbTxnCount_bufLenAfter, chainFrom_add, ← hD, ← hl]
    exact congrArg (chainFrom enc s.keyBytes · _ _) hcv

theorem execUpdate_ready {P : Bytes} {s u : State} (hr : s.seq = .ready) (hx : absorb Config.encrypt P s = .done () u) :
    execUpdate P s = .next (u.respond .ok []) := by
  rw [execUpdate, updateWith, if_pos hr, hx, Op.finish_done]

/-- UPDATE with a port that answers extends the message by its payload. -/
theorem State.Absorbed.update_extends {s : State} {M : Bytes} (h : s.Absorbed Config.encrypt M) (P : Bytes)
    (hp : s.portAnswers (absorbTxnCount s.buf.length P.length)) :
    ∃ u, execUpdate P s = .next u ∧ u.Absorbed Config.encrypt (M ++ P) ∧ u.keyBytes = s.keyBytes := by
  have hb : s.buf.length ≤ 16 := h.buf_length ▸ bufLenAfter_le M.length
  exact ⟨_, execUpdate_ready h.ready (absorb_done Config.encrypt P s hb hp),
    (State.respond_absorbed _ _ _ _ _).mpr (h.chained P []), rfl⟩

/-- Settles O33: NEW by the registers it loads, UPDATE by continuing the chain, and the buffer's length by R22. -/
theorem updateExtendsTheMessage : Obligations.UpdateExtendsTheMessage := by
  unfold Obligations.UpdateExtendsTheMessage
  refine ⟨fun t P s hP h1 h16 => ?_, fun M P s hM hp => ?_⟩
  · have hv : newArgsValid t P = true := (newArgsValid_iff t P).mpr ⟨hP, h1, h16⟩
    exact ⟨_, execNew_valid s hv, (State.respond_absorbed _ _ _ _ _).mpr (s.loadInstance_absorbed _ t P),
      s.loadInstance_keyBytes hv⟩
  · have hn : (M.length + P.length + 15) / 16 - 1 - ((M.length + 15) / 16 - 1) =
        absorbTxnCount s.buf.length P.length := by
      have hcount := absorbTxnCount_bufLenAfter M.length P.length
      simp only [blockCount] at hcount
      rw [hM.buf_length]; omega
    obtain ⟨u, hx, hu, hk⟩ := hM.update_extends P (hn ▸ hp)
    refine ⟨u, hx, hu, hk, fun hne => ?_, fun he => ?_⟩
    · rw [hu.buflen]
      exact ⟨bufLenAfter_pos (by simpa using hne), bufLenAfter_le _⟩
    · rw [hu.buflen, he]
      rfl

end Sys2Proof.Machine

/-! PROOFS. The command stream of 20_memory.md: the decoder reads back the command that the host presents for an
instruction (R59), an instruction does not look at the commands to come (R36), and so presented commands run one after
the other (R36, R100). -/

namespace Sys2Proof

/-- The encoding of a well-formed instruction decodes to it; the tag size has to fit ARG (R53). -/
theorem decode_encode {i : Instr} (h : i.wf = true) : decode (encode i) = .instr i := by
  cases i with
  | new t P =>
    have ht : t < 256 := by simpa [Instr.wf] using h
    simp [decode, encode, Nat.mod_eq_of_lt ht]
  | update P => simp [decode, encode]
  | finalize => simp [decode, encode]

end Sys2Proof

namespace Sys2Proof.Machine

/-! ### What a step does with the oldest event -/

theorem step_of_inbox_nil {s : State} (h : s.inbox = []) : step s = .next s := by
  rw [step, h]

theorem step_of_inbox_command {s : State} {c : Command} {es : List HostEvent} (h : s.inbox = .command c :: es) :
    step s = runCommand c (s.withInbox es) := by
  rw [step, h]

theorem runCommand_of_decode {c : Command} {i : Instr} (h : decode c = .instr i) (s : State) :
    runCommand c s = exec i s := by
  rw [runCommand, h]

/-- Settles O20: the empty stream is the first case of a step. -/
theorem coreWaitsWithoutACommand : Obligations.CoreWaitsWithoutACommand := by
  unfold Obligations.CoreWaitsWithoutACommand
  intro s h
  exact step_of_inbox_nil h

/-! ### An instruction does not look at the events to come -/

/-- The operation's end, with the coming events of the state it left replaced. -/
def Op.withInbox {α : Type} (x : Op α) (es : List HostEvent) : Op α :=
  match x with
  | .done a s => .done a (s.withInbox es)
  | .raised s => .raised (s.withInbox es)
  | .hung s => .hung (s.withInbox es)

/-- Go on with `f` where an outcome is a next state. A fault or a refusal ends the run. -/
def andThen (o : Host.Outcome State Fault Refusal) (f : State → Host.Outcome State Fault Refusal) :
    Host.Outcome State Fault Refusal :=
  match o with
  | .next s => f s
  | .fault r => .fault r
  | .refused r => .refused r

section
variable {α β : Type} (enc : Cipher) (es : List HostEvent)

@[simp] theorem State.withInbox_buflen (s : State) : (s.withInbox es).buflen = s.buflen := rfl

/-- Sequencing does not look at the events where its second operation does not. -/
theorem Op.bind_withInbox (x : Op α) {f : α → State → Op β}
    (hf : ∀ a u, f a (u.withInbox es) = (f a u).withInbox es) :
    (x.withInbox es).bind f = (x.bind f).withInbox es := by
  cases x with
  | done a u => exact hf a u
  | raised u => rfl
  | hung u => rfl

/-- The end of a command does not look at the events where what it makes of the value does not. -/
theorem Op.finish_withInbox (x : Op α) {k : α → State → State}
    (hk : ∀ a u, k a (u.withInbox es) = (k a u).withInbox es) :
    (x.withInbox es).finish k = andThen (x.finish k) fun u => .next (u.withInbox es) := by
  cases x with
  | done a u => exact congrArg Host.Outcome.next (hk a u)
  | raised u => rfl
  | hung u => rfl

theorem portEncrypt_withInbox (b : Block) (s : State) :
    portEncrypt enc b (s.withInbox es) = (portEncrypt enc b s).withInbox es := by
  cases h : s.fateAt 0 with
  | answers => rw [portEncrypt_answers enc s b h, portEncrypt_answers enc (s.withInbox es) b h]; rfl
  | fails => rw [portEncrypt_fails enc s b h, portEncrypt_fails enc (s.withInbox es) b h]; rfl
  | silent => rw [portEncrypt_silent enc s b h, portEncrypt_silent enc (s.withInbox es) b h]; rfl

theorem processBlock_withInbox (s : State) :
    processBlock enc (s.withInbox es) = (processBlock enc s).withInbox es := by
  rw [processBlock, portEncrypt_withInbox]
  exact Op.bind_withInbox es _ fun _ _ => rfl

theorem absorb_withInbox (P : Bytes) (s : State) :
    absorb enc P (s.withInbox es) = (absorb enc P s).withInbox es := by
  induction P generalizing s with
  | nil => rfl
  | cons d ds ih =>
    have hpush (u : State) : absorb enc ds ((u.withInbox es).pushByte d) =
        (absorb enc ds (u.pushByte d)).withInbox es := ih (u.pushByte d)
    rw [absorb, absorb, State.withInbox_buflen]
    split
    · rw [processBlock_withInbox]
      exact Op.bind_withInbox es _ fun _ u => hpush u
    · exact hpush s

theorem deriveSubkeys_withInbox (s : State) :
    deriveSubkeys enc (s.withInbox es) = (deriveSubkeys enc s).withInbox es := by
  rw [deriveSubkeys, portEncrypt_withInbox]
  exact Op.bind_withInbox es _ fun _ _ => rfl

theorem closeInstance_withInbox (s : State) :
    closeInstance enc (s.withInbox es) = (closeInstance enc s).withInbox es := by
  rw [closeInstance, finalEncrypt, portEncrypt_withInbox]
  exact Op.bind_withInbox es _ fun _ _ => rfl

theorem finalizeBody_withInbox (s : State) :
    finalizeBody enc (s.withInbox es) = (finalizeBody enc s).withInbox es := by
  cases hs : s.skvalid with
  | true => rw [finalizeBody_derived enc s hs, finalizeBody_derived enc (s.withInbox es) hs, closeInstance_withInbox]
  | false =>
    rw [finalizeBody_derives enc s hs, finalizeBody_derives enc (s.withInbox es) hs,
      deriveSubkeys_withInbox]
    exact Op.bind_withInbox es _ fun _ u => closeInstance_withInbox enc es u

/-- R36: what an instruction does is the same whatever commands follow it, and it leaves them to come. -/
theorem exec_withInbox (i : Instr) (s : State) :
    exec i (s.withInbox es) = andThen (exec i s) fun u => .next (u.withInbox es) := by
  cases i with
  | new t P =>
    cases hv : newArgsValid t P with
    | true => rw [exec_new, exec_new, execNew_valid _ hv, execNew_valid _ hv]; rfl
    | false => rw [exec_new, exec_new, execNew_invalid _ hv, execNew_invalid _ hv]; rfl
  | update P =>
    rw [exec_update, exec_update, execUpdate, execUpdate, updateWith, updateWith, State.withInbox_seq]
    split
    · rw [absorb_withInbox]
      exact Op.finish_withInbox es _ fun _ _ => rfl
    · rfl
  | finalize =>
    rw [exec_finalize, exec_finalize, execFinalize, execFinalize, finalizeWith, finalizeWith, State.withInbox_seq]
    split
    · rw [finalizeBody_withInbox]
      exact Op.finish_withInbox es _ fun _ _ => rfl
    · rfl

end

/-! ### Presented commands in order -/

/-- A step on the presented encoding of an instruction is the instruction, with the later events left to come. -/
theorem step_of_inbox_encode {i : Instr} (hi : i.wf = true) {s : State} {es : List HostEvent}
    (h : s.inbox = .command (encode i) :: es) : step s = exec i (s.withInbox es) := by
  rw [step_of_inbox_command h, runCommand_of_decode (decode_encode hi)]

theorem core_run_succ (k : Nat) (s : State) :
    Host.Core.run core (k + 1) s = andThen (step s) (Host.Core.run core k) := by
  simp only [Host.Core.run, Host.Check.core_step]
  cases step s <;> rfl

theorem runInstrs_cons (i : Instr) (is : List Instr) (s : State) :
    runInstrs (i :: is) s = andThen (exec i s) (runInstrs is) := by
  rw [runInstrs]
  cases exec i s <;> rfl

/-- Settles O18, by induction on the instructions: the first one leaves the later commands in the stream, and does the
same as without them. -/
theorem presentedCommandsRunInOrder : Obligations.PresentedCommandsRunInOrder := by
  unfold Obligations.PresentedCommandsRunInOrder
  intro is es s hwf h
  induction is generalizing s with
  | nil =>
    obtain rfl : s.inbox = es := h
    rfl
  | cons i is ih =>
    obtain ⟨hi, his⟩ := List.forall_mem_cons.mp hwf
    rw [List.map_cons, List.cons_append] at h
    generalize is.map (fun i => HostEvent.command (encode i)) ++ es = rest at h ih
    have hsame : exec i (s.withInbox es) = andThen (exec i (s.withInbox rest)) fun u => .next (u.withInbox es) :=
      exec_withInbox es i (s.withInbox rest)
    change Host.Core.run core (is.length + 1) s = runInstrs (i :: is) (s.withInbox es)
    rw [core_run_succ, step_of_inbox_encode hi h, runInstrs_cons, hsame]
    cases hx : exec i (s.withInbox rest) with
    | next t =>
      obtain ⟨r, txns, hadds⟩ := exec_adds hx
      exact ih t his hadds.inbox
    | fault f => rfl
    | refused r => rfl

end Sys2Proof.Machine

/-! PROOFS. The encoding of 30_encoding.md: the branches of the decoder (R55, R59), the one spelling of a legal command
(R60), the rows of the opcode table (R52), the status codes (R56), and the commands of a script line (R61, R62). -/

namespace Sys2Proof

/-! ### The branches of the decoder -/

/-- What a command decodes to, with the fields that lead there (R55, R59). -/
inductive DecodeCase (c : Command) : Decoded → Prop
  | new (hr : rsvdField c.word = 0#16) (ho : opcField c.word = 0x01#8) :
      DecodeCase c (.instr (.new (argField c.word).toNat c.payload))
  | update (hr : rsvdField c.word = 0#16) (ho : opcField c.word = 0x02#8) (ha : argField c.word = 0#8) :
      DecodeCase c (.instr (.update c.payload))
  | finalize (hr : rsvdField c.word = 0#16) (ho : opcField c.word = 0x03#8) (ha : argField c.word = 0#8)
      (hP : c.payload = []) : DecodeCase c (.instr .finalize)
  | reservedNotZero (hr : rsvdField c.word ≠ 0#16) : DecodeCase c (.illegal .reservedNotZero)
  | reservedOpcode (ho : opcField c.word ∉ [0x01#8, 0x02#8, 0x03#8]) : DecodeCase c (.illegal .reservedOpcode)
  | argNotZero (ho : opcField c.word ∈ [0x02#8, 0x03#8]) (ha : argField c.word ≠ 0#8) :
      DecodeCase c (.illegal .argNotZero)
  | payloadNotEmpty (ho : opcField c.word = 0x03#8) (hP : c.payload.length ≠ 0) :
      DecodeCase c (.illegal .payloadNotEmpty)

theorem decode_case (c : Command) : DecodeCase c (decode c) := by
  unfold decode
  split
  next hr => exact .reservedNotZero hr
  next hr =>
  have hr := not_not.mp hr
  split
  next ho => exact .new hr ho
  next h1 =>
  split
  next ho =>
    split
    next ha => exact .update hr ho ha
    next ha => exact .argNotZero (by simp [ho]) ha
  next h2 =>
  split
  next ho =>
    split
    next ha =>
      split
      next hP => exact .finalize hr ho ha (List.length_eq_zero_iff.mp hP)
      next hP => exact .payloadNotEmpty ho hP
    next ha => exact .argNotZero (by simp [ho]) ha
  next h3 => exact .reservedOpcode (by simp [h1, h2, h3])

/-- Settles O5: the decoder finds in the fields of the encoded word what the encoder put there. -/
theorem decodeOfEncodeIsIdentity : Obligations.DecodeOfEncodeIsIdentity := by
  unfold Obligations.DecodeOfEncodeIsIdentity
  intro i hi
  exact decode_encode hi

/-! ### One spelling for each legal command -/

/-- A word with `RSVD = 0` is the one put together from its ARG and OPC. -/
theorem command_eq_of_fields {c : Command} {a o : BitVec 8} (hr : rsvdField c.word = 0#16)
    (ha : argField c.word = a) (ho : opcField c.word = o) : (⟨commandWord a o, c.payload⟩ : Command) = c := by
  rw [← ha, ← ho, commandWord_fields c.word hr]

theorem encode_of_decode {c : Command} {i : Instr} (h : decode c = .instr i) : i.wf = true ∧ encode i = c := by
  have hc := decode_case c
  rw [h] at hc
  cases hc with
  | new hr ho =>
    have hwf : (Instr.new (argField c.word).toNat c.payload).wf = true := decide_eq_true (argField c.word).isLt
    exact ⟨hwf, by simpa [encode] using command_eq_of_fields hr rfl ho⟩
  | update hr ho ha => exact ⟨rfl, command_eq_of_fields hr ha ho⟩
  | finalize hr ho ha hP => exact ⟨rfl, by rw [← command_eq_of_fields hr ha ho, hP, encode]⟩

/-- Settles O6: each legal branch of the decoder fixes all three fields of the word. -/
theorem encodeOfDecodeIsIdentity : Obligations.EncodeOfDecodeIsIdentity := by
  unfold Obligations.EncodeOfDecodeIsIdentity
  intro c i h
  exact encode_of_decode h

/-! ### Illegal commands -/

/-- The clauses (a) to (d) of R55, on the fields of the word. -/
theorem decode_illegal_iff (c : Command) :
    (∃ why, decode c = .illegal why) ↔
      (rsvdField c.word ≠ 0#16 ∨ opcField c.word ∉ [0x01#8, 0x02#8, 0x03#8] ∨
        (opcField c.word ∈ [0x02#8, 0x03#8] ∧ argField c.word ≠ 0#8) ∨
        (opcField c.word = 0x03#8 ∧ c.payload.length ≠ 0)) := by
  have hc := decode_case c
  cases hd : decode c with
  | illegal why =>
    rw [hd] at hc
    refine iff_of_true ⟨why, rfl⟩ ?_
    cases hc with
    | reservedNotZero hr => exact .inl hr
    | reservedOpcode ho => exact .inr (.inl ho)
    | argNotZero ho ha => exact .inr (.inr (.inl ⟨ho, ha⟩))
    | payloadNotEmpty ho hP => exact .inr (.inr (.inr ⟨ho, hP⟩))
  | instr i =>
    rw [hd] at hc
    refine iff_of_false (by simp) ?_
    cases hc with
    | new hr ho => simp [hr, ho]
    | update hr ho ha => simp [hr, ho, ha]
    | finalize hr ho ha hP => simp [hr, ho, ha, hP]

/-! ### The rows of the opcode table -/

theorem Instr.row_mem_opcodeTable (i : Instr) : i.row ∈ opcodeTable := by
  cases i with
  | new t P => exact .head _
  | update P => exact .tail _ (.head _)
  | finalize => exact .tail _ (.tail _ (.head _))

/-- The rows of UPDATE and FINALIZE leave no bit free (R52). -/
theorem and_fullMask (w : CommandWord) : w &&& 0xFFFFFFFF#32 = w := BitVec.and_allOnes

/-- NEW's row leaves ARG free and fixes the two other fields (R52). -/
theorem new_row_iff (w : CommandWord) :
    w &&& 0xFFFF00FF#32 = 0x00000001#32 ↔ rsvdField w = 0#16 ∧ opcField w = 0x01#8 := by
  have hr : rsvdField (w &&& 0xFFFF00FF#32) = rsvdField w := BitVec.extractLsb'_and.trans BitVec.and_allOnes
  have ha : argField (w &&& 0xFFFF00FF#32) = 0#8 := BitVec.extractLsb'_and.trans BitVec.and_zero
  have ho : opcField (w &&& 0xFFFF00FF#32) = opcField w := BitVec.extractLsb'_and.trans BitVec.and_allOnes
  constructor
  · intro h
    rw [h] at hr ho
    exact ⟨hr.symm, ho.symm⟩
  · rintro ⟨hr0, ho1⟩
    rw [← commandWord_fields _ (hr.trans hr0), ha, ho, ho1]
    rfl

/-- The row of a word says what it decodes to; only FINALIZE with a payload is illegal there (R55 (d)). -/
theorem decode_of_matches_row {c : Command} {r : OpcodeRow} (hr : r ∈ opcodeTable)
    (h : c.word &&& r.mask = r.pattern) :
    (∃ i : Instr, decode c = .instr i ∧ i.row = r) ∨ (r.mnemonic = "FINALIZE" ∧ c.payload.length ≠ 0) := by
  obtain ⟨w, P⟩ := c
  simp only [opcodeTable, List.mem_cons, List.not_mem_nil, or_false] at hr
  obtain rfl | rfl | rfl := hr
  · obtain ⟨hrsvd, hopc⟩ := (new_row_iff w).mp h
    exact .inl ⟨.new (argField w).toNat P, by simp [decode, hrsvd, hopc], rfl⟩
  · obtain rfl : w = commandWord 0#8 0x02#8 := (and_fullMask w).symm.trans h
    exact .inl ⟨_, decode_encode (i := .update P) rfl, rfl⟩
  · obtain rfl : w = commandWord 0#8 0x03#8 := (and_fullMask w).symm.trans h
    cases P with
    | nil => exact .inl ⟨_, decode_encode (i := .finalize) rfl, rfl⟩
    | cons b P => exact .inr ⟨rfl, by simp⟩

theorem encode_matches_row (i : Instr) : (encode i).word &&& i.row.mask = i.row.pattern := by
  cases i with
  | new t P => exact (new_row_iff _).mpr (by simp [encode])
  | update P => exact and_fullMask _
  | finalize => exact and_fullMask _

/-- Settles O8: a legal command is its instruction's encoding. A word in two rows would, without a payload, decode to
an instruction of either. -/
theorem decoderAgreesWithOpcodeTable : Obligations.DecoderAgreesWithOpcodeTable := by
  unfold Obligations.DecoderAgreesWithOpcodeTable
  refine ⟨fun c i h => ?_, fun c r hr h => decode_of_matches_row hr h, fun w r q hr hq h h' => ?_⟩
  · obtain ⟨-, rfl⟩ := encode_of_decode h
    exact ⟨i.row_mem_opcodeTable, encode_matches_row i⟩
  · have hd (r : OpcodeRow) (hr : r ∈ opcodeTable) (h : w &&& r.mask = r.pattern) :
        ∃ i : Instr, decode ⟨w, []⟩ = .instr i ∧ i.row = r :=
      (decode_of_matches_row (c := ⟨w, []⟩) hr h).resolve_right fun hf => hf.2 rfl
    obtain ⟨i, hi, rfl⟩ := hd r hr h
    obtain ⟨j, hj, rfl⟩ := hd q hq h'
    rw [Decoded.instr.inj (hi.symm.trans hj)]

/-- Settles O9: the words are written out, so the decoder is run on each. -/
theorem specWordsDecode : Obligations.SpecWordsDecode := by
  unfold Obligations.SpecWordsDecode
  decide

/-! ### The commands of a script line -/

theorem commandWord_toNat (a o : BitVec 8) : (commandWord a o).toNat = 256 * a.toNat + o.toNat := by
  change (0#16 ++ (a ++ o)).toNat = _
  rw [BitVec.toNat_append, BitVec.toNat_append, ← Nat.shiftLeft_add_eq_or_of_lt o.isLt]
  simp [Nat.shiftLeft_eq, Nat.mul_comm]

theorem encode_new {t : Nat} (ht : t < 256) (P : Bytes) :
    encode (.new t P) = ⟨BitVec.ofNat 32 (256 * t + 1), P⟩ := by
  have hw : commandWord (BitVec.ofNat 8 t) 0x01#8 = BitVec.ofNat 32 (256 * t + 1) := by
    apply BitVec.eq_of_toNat_eq
    rw [commandWord_toNat, BitVec.toNat_ofNat, BitVec.toNat_ofNat, BitVec.toNat_ofNat]
    omega
  rw [encode, hw]

/-- Settles O11: NEW's word is `256 * tag + 1` while the tag fits ARG, and the other two words are fixed. -/
theorem scriptLinesStandForTheirCommands : Obligations.ScriptLinesStandForTheirCommands := by
  unfold Obligations.ScriptLinesStandForTheirCommands
  intro tag key msg w
  have hu : encode (.update msg) = ⟨0x00000002#32, msg⟩ := rfl
  have hf : encode .finalize = ⟨0x00000003#32, []⟩ := rfl
  refine ⟨fun ht => ⟨?_, ?_⟩, fun ht => ⟨if_neg ht, if_neg ht⟩, ?_, ?_, rfl⟩
  · rw [ScriptLine.commands, if_pos ht, encode_new ht]
  · rw [ScriptLine.commands, if_pos ht, encode_new ht, hu, hf]
  · rw [ScriptLine.commands, hu]
  · rw [ScriptLine.commands, hf]

end Sys2Proof

namespace Sys2Proof.Machine

/-! ### The answer to an illegal command -/

theorem runCommand_of_illegal {c : Command} {why : Illegal} (h : decode c = .illegal why) (s : State) :
    runCommand c s = .next (s.respond (.error .illegalCommand) []) := by
  rw [runCommand, h]
  rfl

/-- Settles O7: the branches of the decoder are the clauses, and the error entry of R111 adds a response only. -/
theorem illegalCommandsAreExactlyR55 : Obligations.IllegalCommandsAreExactlyR55 := by
  unfold Obligations.IllegalCommandsAreExactlyR55
  intro c
  refine ⟨decode_illegal_iff c, fun s es ⟨why, hd⟩ hi => ?_⟩
  rw [step_of_inbox_command hi, runCommand_of_illegal hd]
  rfl

/-! ### Status codes -/

/-- The status of a `STATUS` byte: the table of R56 read from right to left. -/
def Status.ofCode : Byte → Option Status
  | 0x00#8 => some .ok
  | 0x01#8 => some (.error .invalidArgument)
  | 0x02#8 => some (.error .stateError)
  | 0x03#8 => some (.error .cipherError)
  | 0x04#8 => some (.error .illegalCommand)
  | _ => none

theorem Status.ofCode_code (a : Status) : Status.ofCode a.code = some a := by
  cases a with
  | ok => rfl
  | error e => cases e <;> rfl

/-- Settles O10: a status is read back from its code. -/
theorem statusCodesAreThoseOfR56 : Obligations.StatusCodesAreThoseOfR56 := by
  unfold Obligations.StatusCodesAreThoseOfR56
  refine ⟨rfl, rfl, rfl, rfl, rfl, fun a b h => ?_⟩
  have hab : some a = some b := by rw [← Status.ofCode_code a, h, Status.ofCode_code b]
  exact Option.some.inj hab

end Sys2Proof.Machine

/-! PROOFS. The subkey deriver of 40_subkey_deriver.md: DoubleGF as a shift and a reduction, bit by bit and over GF(2)
(R70, R71), what the derivation writes (R72), and how a port failure in FINALIZE ends (R103, R116). -/

namespace Sys2Proof.Machine

/-! ### DoubleGF as a shift and a reduction -/

/-- What DoubleGF adds to the shifted block when the bit `b` was dropped: the constant of R70, or nothing. -/
def gfReduction (b : Bool) : Block := if b then Config.rConst else 0#128

/-- R70 as one sum over GF(2): both branches shift, and the dropped bit selects what is added. -/
theorem doubleGF_eq (X : Block) : doubleGF X = shl1 X ^^^ gfReduction X.msb := by
  cases h : X.msb <;> simp [doubleGF, gfReduction, h]

/-- The byte that R71 computes without a branch is the reduction of the dropped bit. -/
theorem ofBytes_zeroBytes_append_mul (b : Bool) :
    Block.ofBytes (zeroBytes 15 ++ [0x87#8 * (BitVec.ofBool b).setWidth 8]) = gfReduction b := by
  cases b <;> decide

/-- Settles O14: the two forms of DoubleGF add the same block to the shifted one. -/
theorem branchFreeDoublingAgrees : Obligations.BranchFreeDoublingAgrees := by
  unfold Obligations.BranchFreeDoublingAgrees
  intro X
  rw [doubleGFBranchFree, ofBytes_zeroBytes_append_mul, doubleGF_eq]

/-! ### DoubleGF bit by bit -/

theorem shl1_getLsbD (X : Block) {i : Nat} (hi : i < 128) :
    (shl1 X).getLsbD i = (decide (1 ≤ i) && X.getLsbD (i - 1)) := by
  have h1 : (!decide (i < 1)) = decide (1 ≤ i) := by simp [Nat.one_le_iff_ne_zero]
  rw [shl1, BitVec.getLsbD_shiftLeft, decide_eq_true hi, h1, Bool.true_and]

/-- The constant 0x87 has exactly the bits 0, 1, 2 and 7 (R70). -/
theorem rConst_getLsbD {i : Nat} (hi : i < 128) : Config.rConst.getLsbD i = decide (i ∈ [0, 1, 2, 7]) := by
  revert i
  decide

theorem gfReduction_getLsbD (b : Bool) {i : Nat} (hi : i < 128) :
    (gfReduction b).getLsbD i = (b && decide (i ∈ [0, 1, 2, 7])) := by
  cases b with
  | false => simp [gfReduction]
  | true => exact rConst_getLsbD hi

theorem doubleGF_getLsbD (X : Block) {i : Nat} (hi : i < 128) :
    (doubleGF X).getLsbD i =
      ((decide (1 ≤ i) && X.getLsbD (i - 1)) ^^ (X.getLsbD 127 && decide (i ∈ [0, 1, 2, 7]))) := by
  rw [doubleGF_eq, BitVec.getLsbD_xor, shl1_getLsbD X hi, gfReduction_getLsbD _ hi, BitVec.msb_eq_getLsbD_last]

/-- Settles O13: a bit of the shift and a bit of the reduction. -/
theorem doubleGFMovesBitsAndReduces : Obligations.DoubleGFMovesBitsAndReduces := by
  unfold Obligations.DoubleGFMovesBitsAndReduces
  intro X i hi
  exact doubleGF_getLsbD X hi

/-! ### DoubleGF over GF(2) -/

theorem shl1_xor (X Y : Block) : shl1 (X ^^^ Y) = shl1 X ^^^ shl1 Y := BitVec.shiftLeft_xor_distrib X Y 1

theorem gfReduction_xor (a b : Bool) : gfReduction (a ^^ b) = gfReduction a ^^^ gfReduction b := by
  cases a <;> cases b <;> decide

/-- The shift and the reduction are both additive, and the dropped bit of a sum is the sum of the dropped bits. -/
theorem doubleGF_xor (X Y : Block) : doubleGF (X ^^^ Y) = doubleGF X ^^^ doubleGF Y := by
  rw [doubleGF_eq, doubleGF_eq, doubleGF_eq, shl1_xor, BitVec.msb_xor, gfReduction_xor]
  ac_rfl

/-- The dropped bit is not lost: it is bit 0 of the result, since the constant is odd. -/
theorem doubleGF_getLsbD_zero (X : Block) : (doubleGF X).getLsbD 0 = X.getLsbD 127 := by
  rw [doubleGF_getLsbD X (by decide)]
  simp

theorem doubleGF_injective {X Y : Block} (h : doubleGF X = doubleGF Y) : X = Y := by
  have htop : X.getLsbD 127 = Y.getLsbD 127 := by rw [← doubleGF_getLsbD_zero, h, doubleGF_getLsbD_zero]
  apply BitVec.eq_of_getLsbD_eq
  intro i hi
  by_cases hi' : i = 127
  · rw [hi', htop]
  · have hbit : (doubleGF X).getLsbD (i + 1) = (doubleGF Y).getLsbD (i + 1) := by rw [h]
    rw [doubleGF_getLsbD X (by omega), doubleGF_getLsbD Y (by omega), htop] at hbit
    simpa using hbit

/-- Settles O15: additivity of the shift and the reduction, and the block read back from the bits of its double. -/
theorem doublingIsLinearAndInjective : Obligations.DoublingIsLinearAndInjective := by
  unfold Obligations.DoublingIsLinearAndInjective
  exact ⟨doubleGF_xor, fun _ _ => doubleGF_injective⟩

/-! ### The parts of FINALIZE with a port that answers or fails -/

section
variable (enc : Cipher) (s : State)

theorem deriveSubkeys_answers (h : s.fateAt 0 = .answers) : deriveSubkeys enc s =
    .done () ((s.setSubkeys (enc s.keyBytes 0#128)).logTxns [⟨s.keyBytes, 0#128, .ok (enc s.keyBytes 0#128)⟩]) := by
  rw [deriveSubkeys, portEncrypt_answers enc s _ h, Op.bind_done, State.logTxns_setSubkeys]

theorem deriveSubkeys_fails (h : s.fateAt 0 = .fails) :
    deriveSubkeys enc s = .raised (s.logTxns [⟨s.keyBytes, 0#128, .fail⟩]) := by
  rw [deriveSubkeys, portEncrypt_fails enc s _ h, Op.bind_raised]

theorem closeInstance_fails (h : s.fateAt 0 = .fails) :
    closeInstance enc s = .raised (s.logTxns [⟨s.keyBytes, finalBlock s ^^^ s.cv, .fail⟩]) := by
  rw [closeInstance, finalEncrypt, portEncrypt_fails enc s _ h, Op.bind_raised]

/-- The derivation's part of the body is over: what follows is the final call from the state with the subkeys. -/
theorem finalizeBody_of_derivation_answers (hv : s.skvalid = false) (h : s.fateAt 0 = .answers) :
    finalizeBody enc s = closeInstance enc
      ((s.setSubkeys (enc s.keyBytes 0#128)).logTxns [⟨s.keyBytes, 0#128, .ok (enc s.keyBytes 0#128)⟩]) := by
  rw [finalizeBody_derives enc s hv, deriveSubkeys_answers enc s h, Op.bind_done]

theorem finalizeBody_of_derivation_fails (hv : s.skvalid = false) (h : s.fateAt 0 = .fails) :
    finalizeBody enc s = .raised (s.logTxns [⟨s.keyBytes, 0#128, .fail⟩]) := by
  rw [finalizeBody_derives enc s hv, deriveSubkeys_fails enc s h, Op.bind_raised]

/-- The final call fails after a derivation that was answered: two transactions, the zero block first. -/
theorem finalizeBody_of_final_call_fails (hv : s.skvalid = false) (h0 : s.fateAt 0 = .answers)
    (h1 : s.fateAt 1 = .fails) :
    finalizeBody enc s = .raised ((s.setSubkeys (enc s.keyBytes 0#128)).logTxns
      [⟨s.keyBytes, 0#128, .ok (enc s.keyBytes 0#128)⟩,
        ⟨s.keyBytes, finalBlock (s.setSubkeys (enc s.keyBytes 0#128)) ^^^ s.cv, .fail⟩]) := by
  rw [finalizeBody_of_derivation_answers enc s hv h0, closeInstance_fails enc _ (by simpa using h1),
    State.logTxns_logTxns]
  rfl

end

/-- Settles O34, from the one transaction of the derivation. -/
theorem derivationWritesBothSubkeysOrNone : Obligations.DerivationWritesBothSubkeysOrNone := by
  unfold Obligations.DerivationWritesBothSubkeysOrNone
  rintro enc s L rfl
  exact ⟨deriveSubkeys_answers enc s, deriveSubkeys_fails enc s⟩

/-! ### A port failure in FINALIZE -/

theorem State.terminate_zeroed (s : State) : s.terminate.zeroed = true := by
  simp [State.zeroed]

/-- A FINALIZE whose body raises CipherError ends with that error, zeroized, and no result (R116). -/
theorem execFinalize_of_raised {s u : State} (hr : s.seq = .ready) (h : finalizeBody Config.encrypt s = .raised u) :
    execFinalize s = .next (u.terminate.respond (.error .cipherError) []) := by
  rw [execFinalize, finalizeWith, if_pos hr, h, Op.finish_raised, State.errorEntry_cipherError]

/-- Settles O36: in each of the three cases the body raises CipherError with exactly these transactions logged, and the
zeroization forgets what else it had written. -/
theorem finalizePortFailureReturnsNoTag : Obligations.FinalizePortFailureReturnsNoTag := by
  unfold Obligations.FinalizePortFailureReturnsNoTag
  intro s L K1 K2 Mlast hr hsub hM txns hcase
  have hx : execFinalize s = .next ((s.logTxns txns).terminate.respond (.error .cipherError) []) := by
    obtain ⟨hv, h0, rfl⟩ | ⟨hv, h0, h1, rfl⟩ | ⟨hv, h0, rfl⟩ := hcase
    · exact execFinalize_of_raised hr (finalizeBody_of_derivation_fails _ s hv h0)
    · rw [hv] at hsub
      obtain ⟨rfl, rfl, rfl⟩ := hsub
      obtain rfl : Mlast = finalBlock (s.setSubkeys (Config.encrypt s.keyBytes 0#128)) := hM
      rw [execFinalize_of_raised hr (finalizeBody_of_final_call_fails _ s hv h0 h1), ← State.logTxns_setSubkeys,
        State.setSubkeys_terminate]
    · rw [if_pos hv] at hsub
      obtain ⟨rfl, rfl⟩ := hsub
      obtain rfl : Mlast = finalBlock s := hM
      exact execFinalize_of_raised hr ((finalizeBody_derived _ s hv).trans (closeInstance_fails _ s h0))
  exact ⟨_, hx, rfl, State.terminate_zeroed (s.logTxns txns), rfl, rfl, rfl, rfl, rfl⟩

end Sys2Proof.Machine

/-! PROOFS. The stream accumulator of 41_stream_accumulator.md: the chaining step (R80), the source's wording of
Absorb (R82), and the count of port transactions (R84). -/

namespace Sys2Proof.Machine

/-! ### One chaining step -/

section
variable (enc : Cipher) (s : State)

theorem processBlock_answers (h : s.fateAt 0 = .answers) : processBlock enc s =
    .done () ((s.chainTo (enc s.keyBytes (s.cv ^^^ Block.ofBytes s.buf))).logTxns
      [⟨s.keyBytes, s.cv ^^^ Block.ofBytes s.buf, .ok (enc s.keyBytes (s.cv ^^^ Block.ofBytes s.buf))⟩]) := by
  rw [processBlock, portEncrypt_answers enc s _ h, Op.bind_done]
  rfl

theorem processBlock_fails (h : s.fateAt 0 = .fails) :
    processBlock enc s = .raised (s.logTxns [⟨s.keyBytes, s.cv ^^^ Block.ofBytes s.buf, .fail⟩]) := by
  rw [processBlock, portEncrypt_fails enc s _ h, Op.bind_raised]

end

/-- Settles O26, from the one transaction of the step; that the buffer is full is not needed. -/
theorem processBlockSendsTheXor : Obligations.ProcessBlockSendsTheXor := by
  unfold Obligations.ProcessBlockSendsTheXor
  intro enc s _
  exact ⟨processBlock_answers enc s, processBlock_fails enc s⟩

/-! ### The source's wording of Absorb -/

/-- The source's first move (R82): the whole payload appended to the buffer. -/
def State.pushBytes (s : State) (P : Bytes) : State := s.setChain s.cv (s.buf ++ P)

@[simp] theorem State.pushBytes_nil (s : State) : s.pushBytes [] = s := by
  rw [State.pushBytes, List.append_nil, State.setChain_self]

theorem State.pushBytes_cons (s : State) (d : Byte) (ds : Bytes) :
    s.pushBytes (d :: ds) = (s.pushByte d).pushBytes ds := by
  simp [State.pushBytes, State.pushByte_eq]

section
variable (enc : Cipher)

/-- With at most one full block pending the source's loop ends. -/
theorem drainSource_of_length_le (n : Nat) (s : State) (hb : s.buf.length ≤ 16) : drainSource enc n s = .done () s := by
  cases n with
  | zero => rfl
  | succ n => rw [drainSource, if_neg (by omega)]

/-- A round of the source's loop, where a full buffer has a further byte behind it, makes the transaction of
ProcessBlock and goes on with what was behind. -/
theorem drainSource_full (n : Nat) (s : State) (d : Byte) (ds : Bytes) (hb : s.buf.length = 16) :
    drainSource enc (n + 1) (s.pushBytes (d :: ds)) =
      (portEncrypt enc (s.cv ^^^ Block.ofBytes s.buf) (s.pushBytes (d :: ds))).bind fun C u =>
        drainSource enc n (u.setChain C (u.buf.drop 16)) := by
  have hlen : 16 < (s.pushBytes (d :: ds)).buf.length := by simp [State.pushBytes, hb]
  have htake : (s.pushBytes (d :: ds)).buf.take 16 = s.buf := by simp [State.pushBytes, ← hb]
  rw [drainSource, if_pos hlen, htake]
  rfl

theorem drainSource_full_answers (n : Nat) (s : State) (d : Byte) (ds : Bytes) (hb : s.buf.length = 16)
    (h : s.fateAt 0 = .answers) :
    drainSource enc (n + 1) (s.pushBytes (d :: ds)) = drainSource enc n ((s.afterStep enc d).pushBytes ds) := by
  have hdrop : (s.buf ++ d :: ds).drop 16 = d :: ds := by simp [← hb]
  rw [drainSource_full enc n s d ds hb, portEncrypt_answers enc (s.pushBytes (d :: ds)) _ h, Op.bind_done,
    State.logTxns_buf, State.pushBytes, State.setChain_buf, hdrop]
  rfl

/-- The byte-serial Absorb and the source's loop end a command in the same way. Only a CipherError or a hang leaves
them in different states, the one with the rest of the payload in the buffer, and there a command ends zeroized or not
at all. -/
theorem drainSource_finish (k : Unit → State → State) (P : Bytes) (n : Nat) (s : State) (hb : s.buf.length ≤ 16)
    (hn : P.length ≤ n) : (drainSource enc n (s.pushBytes P)).finish k = (absorb enc P s).finish k := by
  induction P generalizing s n with
  | nil => rw [State.pushBytes_nil, drainSource_of_length_le enc n s hb, absorb]
  | cons d ds ih =>
    rw [List.length_cons] at hn
    by_cases hf : s.buf.length = 16
    · obtain ⟨n, rfl⟩ : ∃ m, n = m + 1 := ⟨n - 1, by omega⟩
      cases h : s.fateAt 0 with
      | answers =>
        rw [drainSource_full_answers enc n s d ds hf h, absorb_full enc s d ds hf h]
        exact ih n _ (by simp) (by omega)
      | fails =>
        rw [drainSource_full enc n s d ds hf, portEncrypt_fails enc (s.pushBytes (d :: ds)) _ h,
          absorb_full_fails enc s d ds hf h]
        rfl
      | silent =>
        rw [drainSource_full enc n s d ds hf, portEncrypt_silent enc (s.pushBytes (d :: ds)) _ h,
          absorb_full_silent enc s d ds hf h]
        rfl
    · rw [State.pushBytes_cons, absorb_push enc s d ds hf]
      exact ih n _ (by simp; omega) (by omega)

end

/-- Settles O32: the fuel of the source's loop is enough for every round, and outside READY neither form absorbs. -/
theorem absorbAgreesWithTheSourceWording : Obligations.AbsorbAgreesWithTheSourceWording := by
  unfold Obligations.AbsorbAgreesWithTheSourceWording
  intro enc P s hb
  rw [updateWith, updateSourceWith]
  split
  · exact (drainSource_finish enc _ P _ s hb (Nat.le_add_left _ _)).symm
  · rfl

/-! ### The count of port transactions -/

/-- R84: one UPDATE of `p + q` bytes makes the transactions of one of `p` bytes and of one of `q` bytes after it. -/
theorem absorbTxnCount_add (b p q : Nat) : absorbTxnCount b (p + q) =
    absorbTxnCount b p + absorbTxnCount (b + p - 16 * absorbTxnCount b p) q := by
  simp only [absorbTxnCount, blockCount]; omega

/-- What R84's transactions do not chain fits the buffer. -/
theorem length_sub_absorbTxnCount_le (b p : Nat) : b + p - 16 * absorbTxnCount b p ≤ 16 := by
  simp only [absorbTxnCount, blockCount]; omega

/-- The state after an UPDATE in READY whose port answers (R81, R102). -/
def State.updated (s : State) (P : Bytes) : State :=
  (s.chained Config.encrypt (s.buf ++ P) (absorbTxnCount s.buf.length P.length)
    ((s.buf ++ P).drop (16 * absorbTxnCount s.buf.length P.length)) []).respond .ok []

section
variable (s : State) (P : Bytes)

theorem execUpdate_answers (hr : s.seq = .ready) (hb : s.buf.length ≤ 16)
    (h : s.portAnswers (absorbTxnCount s.buf.length P.length)) : execUpdate P s = .next (s.updated P) :=
  execUpdate_ready hr (absorb_done Config.encrypt P s hb h)

@[simp] theorem State.updated_seq : (s.updated P).seq = s.seq := rfl

theorem State.updated_buf_length : (s.updated P).buf.length =
    s.buf.length + P.length - 16 * absorbTxnCount s.buf.length P.length := by
  simp [State.updated, State.chained]

theorem State.updated_portTrace_length : (s.updated P).portTrace.length =
    s.portTrace.length + absorbTxnCount s.buf.length P.length := by
  simp [State.updated, State.chained]

/-- The draws after an UPDATE are those behind its own transactions. -/
theorem State.updated_portAnswers {m : Nat} (h : s.portAnswers (absorbTxnCount s.buf.length P.length + m)) :
    (s.updated P).portAnswers m := by
  intro j hj
  simpa [State.updated, State.chained] using h (absorbTxnCount s.buf.length P.length + j) (by omega)

end

/-- The updates of a split payload make as many transactions as one UPDATE of the whole (R84). -/
theorem runInstrs_updates_portTrace_length (parts : List Bytes) (s : State) (hr : s.seq = .ready)
    (hb : s.buf.length ≤ 16) (h : s.portAnswers (absorbTxnCount s.buf.length parts.flatten.length)) :
    ∃ t, runInstrs (parts.map Instr.update) s = .next t ∧
      t.portTrace.length = s.portTrace.length + absorbTxnCount s.buf.length parts.flatten.length := by
  induction parts generalizing s with
  | nil =>
    have h0 : absorbTxnCount s.buf.length 0 = 0 := by simp only [absorbTxnCount, blockCount]; omega
    exact ⟨s, rfl, by simp [h0]⟩
  | cons P parts ih =>
    rw [List.flatten_cons, List.length_append, absorbTxnCount_add, ← s.updated_buf_length P] at h ⊢
    have hfirst : execUpdate P s = .next (s.updated P) :=
      execUpdate_answers s P hr hb fun j hj => h j (by omega)
    obtain ⟨t, ht, hlen⟩ := ih (s.updated P) hr
      (s.updated_buf_length P ▸ length_sub_absorbTxnCount_le _ _) (s.updated_portAnswers P h)
    refine ⟨t, ?_, ?_⟩
    · rw [List.map_cons, runInstrs_cons, exec_update, hfirst]
      exact ht
    · rw [hlen, s.updated_portTrace_length P, Nat.add_assoc]

/-- Settles O28: one UPDATE by the state it leaves, a split message by adding up the counts from an empty buffer. -/
theorem updateTransactionCount : Obligations.UpdateTransactionCount := by
  unfold Obligations.UpdateTransactionCount
  refine ⟨fun P s hr hb h => ?_, fun parts s hr hb h => ?_⟩
  · exact ⟨_, execUpdate_answers s P hr hb h, s.updated_portTrace_length P, s.updated_buf_length P⟩
  · have hcount : absorbTxnCount s.buf.length parts.flatten.length = (parts.flatten.length + 15) / 16 - 1 := by
      rw [hb, absorbTxnCount, blockCount, List.length_nil, Nat.zero_add]
    rw [← hcount] at h ⊢
    exact runInstrs_updates_portTrace_length parts s hr (by simp [hb]) h

end Sys2Proof.Machine

/-! PROOFS. The finalizer of 42_finalizer.md: padding (R90), FINALIZE as a function of the registers when the port
answers (R91 to R94), and the tag of a whole instance for every partition of its message (R95, R96). -/

namespace Sys2Proof.Machine

/-! ### Padding -/

theorem pad_eq (B : Bytes) : pad B = B ++ 0x80#8 :: zeroBytes (15 - B.length) := by
  rw [pad, List.append_assoc, List.singleton_append]

theorem pad_length {B : Bytes} (h : B.length ≤ 15) : (pad B).length = 16 := by
  rw [pad_eq, List.length_append, List.length_cons, zeroBytes, List.length_replicate]; omega

theorem pad_take (B : Bytes) : (pad B).take B.length = B := by
  rw [pad_eq, List.take_left]

theorem pad_marker (B : Bytes) : (pad B)[B.length]? = some 0x80#8 := by
  rw [pad_eq, List.getElem?_append_right (Nat.le_refl _), Nat.sub_self, List.getElem?_cons_zero]

theorem pad_after_marker {B : Bytes} {i : Nat} (hB : B.length < i) (hi : i < 16) : (pad B)[i]? = some 0x00#8 := by
  obtain ⟨j, rfl⟩ : ∃ j, i = B.length + (j + 1) := ⟨i - B.length - 1, by omega⟩
  rw [pad_eq, List.getElem?_append_right (Nat.le_add_right _ _), Nat.add_sub_cancel_left, List.getElem?_cons_succ,
    zeroBytes, List.getElem?_replicate, if_pos (by omega)]
  rfl

/-- The longer of two partial blocks has its marker where the shorter one is filled with zeros. -/
theorem length_le_of_pad_eq {A B : Bytes} (hB : B.length ≤ 15) (h : pad A = pad B) : B.length ≤ A.length := by
  by_contra hlt
  have hzero : (pad A)[B.length]? = some 0x00#8 := pad_after_marker (by omega) (by omega)
  rw [h, pad_marker] at hzero
  exact absurd hzero (by decide)

/-- The last 0x80 of a padded block shows where the message bytes end (R90). -/
theorem pad_injective {A B : Bytes} (hA : A.length ≤ 15) (hB : B.length ≤ 15) (h : pad A = pad B) : A = B := by
  have hlen : A.length = B.length := Nat.le_antisymm (length_le_of_pad_eq hA h.symm) (length_le_of_pad_eq hB h)
  rw [← pad_take A, h, hlen, pad_take]

/-- Settles O16, from the bytes before, at and after the marker. -/
theorem paddingFillsAndSeparates : Obligations.PaddingFillsAndSeparates := by
  unfold Obligations.PaddingFillsAndSeparates
  exact ⟨fun B h => ⟨pad_length h, pad_take B, pad_marker B, fun i => pad_after_marker⟩, fun A B => pad_injective⟩

/-! ### FINALIZE with a port that answers -/

section
variable (enc : Cipher) (s : State)

/-- The registers that the final call reads: the subkeys are derived unless they are there already (R94). -/
def State.withDerivedSubkeys : State := if s.skvalid then s else s.setSubkeys (enc s.keyBytes 0#128)

/-- The block of the final call (R92). -/
def State.finalRequest : Block := finalBlock (s.withDerivedSubkeys enc) ^^^ s.cv

/-- The block whose bytes are the tag (R92). -/
def State.finalAnswer : Block := enc s.keyBytes (s.finalRequest enc)

/-- The transactions of the FINALIZE body: the derivation unless the subkeys are there, then the final call (R94). -/
def State.finalizeTxns : List PortTxn :=
  (if s.skvalid then [] else [⟨s.keyBytes, 0#128, .ok (enc s.keyBytes 0#128)⟩]) ++
    [⟨s.keyBytes, s.finalRequest enc, .ok (s.finalAnswer enc)⟩]

theorem State.finalizeTxns_length : (s.finalizeTxns enc).length = if s.skvalid then 1 else 2 := by
  cases hv : s.skvalid <;> simp [State.finalizeTxns, hv]

theorem State.withDerivedSubkeys_terminate (es : List PortTxn) :
    ((s.withDerivedSubkeys enc).logTxns es).terminate = (s.logTxns es).terminate := by
  cases hv : s.skvalid <;> simp only [State.withDerivedSubkeys, hv] <;> rfl

theorem closeInstance_answers (h : s.fateAt 0 = .answers) : closeInstance enc s =
    .done (truncate (enc s.keyBytes (finalBlock s ^^^ s.cv)) s.tagsize.val)
      (s.logTxns [⟨s.keyBytes, finalBlock s ^^^ s.cv, .ok (enc s.keyBytes (finalBlock s ^^^ s.cv))⟩]) := by
  rw [closeInstance, finalEncrypt, portEncrypt_answers enc s _ h, Op.bind_done]
  rfl

/-- The body's value and the state it leaves, with and without derived subkeys (R94). -/
theorem finalizeBody_answers (h : s.portAnswers (s.finalizeTxns enc).length) : finalizeBody enc s =
    .done (truncate (s.finalAnswer enc) s.tagsize.val) ((s.withDerivedSubkeys enc).logTxns (s.finalizeTxns enc)) := by
  rw [State.finalizeTxns_length] at h
  cases hv : s.skvalid with
  | true =>
    rw [finalizeBody_derived enc s hv, closeInstance_answers enc s (h 0 (by simp [hv]))]
    simp [State.finalAnswer, State.finalRequest, State.finalizeTxns, State.withDerivedSubkeys, hv]
  | false =>
    have h0 : s.fateAt 0 = .answers := h 0 (by simp [hv])
    have h1 : s.fateAt 1 = .answers := h 1 (by simp [hv])
    rw [finalizeBody_of_derivation_answers enc s hv h0, closeInstance_answers enc _ (by simpa using h1),
      State.logTxns_logTxns]
    simp only [State.finalAnswer, State.finalRequest, State.finalizeTxns, State.withDerivedSubkeys, hv]
    rfl

end

/-- FINALIZE in READY with a port that answers: its transactions, the end of the instance, and the tag (R94, R103). -/
theorem execFinalize_answers {s : State} (hr : s.seq = .ready)
    (h : s.portAnswers (s.finalizeTxns Config.encrypt).length) : execFinalize s =
      .next ((s.logTxns (s.finalizeTxns Config.encrypt)).terminate.respond .ok
        (truncate (s.finalAnswer Config.encrypt) s.tagsize.val)) := by
  rw [execFinalize, finalizeWith, if_pos hr, finalizeBody_answers _ s h, Op.finish_done,
    State.withDerivedSubkeys_terminate]

theorem State.portAnswers_mono {s : State} {m n : Nat} (h : s.portAnswers n) (hmn : m ≤ n) : s.portAnswers m :=
  fun j hj => h j (hj.trans_le hmn)

/-! ### The tag size -/

section
variable (enc : Cipher) (s : State) (t : Fin 32)

/-- Neither request of FINALIZE depends on the tag size. -/
theorem State.finalRequest_tagsize : { s with tagsize := t }.finalRequest enc = s.finalRequest enc := by
  cases hv : s.skvalid <;> simp only [State.finalRequest, State.withDerivedSubkeys, hv] <;> rfl

theorem State.finalAnswer_tagsize : { s with tagsize := t }.finalAnswer enc = s.finalAnswer enc := by
  rw [State.finalAnswer, State.finalRequest_tagsize]
  rfl

theorem State.finalizeTxns_tagsize : { s with tagsize := t }.finalizeTxns enc = s.finalizeTxns enc := by
  rw [State.finalizeTxns, State.finalRequest_tagsize, State.finalAnswer_tagsize]
  rfl

end

/-- FINALIZE reads the tag size for the length of its result alone (R93). -/
theorem execFinalize_tagsize {s : State} (t : Fin 32) (hr : s.seq = .ready) (h : s.portAnswers 2) :
    execFinalize { s with tagsize := t } =
      .next ((s.logTxns (s.finalizeTxns Config.encrypt)).terminate.respond .ok
        (truncate (s.finalAnswer Config.encrypt) t.val)) := by
  have hle : ({ s with tagsize := t }.finalizeTxns Config.encrypt).length ≤ 2 := by
    rw [State.finalizeTxns_length]; split <;> omega
  rw [execFinalize_answers (s := { s with tagsize := t }) hr (State.portAnswers_mono h hle),
    State.finalizeTxns_tagsize, State.finalAnswer_tagsize]
  rfl

/-- Settles O38: both tags are taken from the answer to one and the same final request. -/
theorem tagsTruncateConsistently : Obligations.TagsTruncateConsistently := by
  unfold Obligations.TagsTruncateConsistently
  intro s t hr _ h
  have hfull : truncate (s.finalAnswer Config.encrypt) 16 = Block.toBytes (s.finalAnswer Config.encrypt) :=
    List.take_of_length_le (by simp)
  exact ⟨_, _, _, execFinalize_tagsize 16 hr h, execFinalize_tagsize t hr h, Block.toBytes_length _,
    congrArg (fun tag => s.responses ++ [⟨.ok, tag⟩]) hfull, rfl, rfl⟩

/-! ### The final block of a message -/

/-- R91's test on the buffer is R96's test on the message. -/
theorem bufLenAfter_eq_full_iff (N : Nat) : bufLenAfter N = 16 ↔ 1 ≤ N ∧ N % 16 = 0 := by
  simp only [bufLenAfter]; split <;> omega

theorem cmacBlockCount_sub_one (M : Bytes) : cmacBlockCount M - 1 = blockCount M.length - 1 := by
  rw [cmacBlockCount]; omega

/-- Past the deferred last block there is nothing left of the message. -/
theorem slice_last_block {M : Bytes} {j : Nat} (h : M.length ≤ j) :
    slice M (16 * (cmacBlockCount M - 1)) j = M.drop (16 * (blockCount M.length - 1)) := by
  rw [slice, cmacBlockCount_sub_one, List.take_of_length_le (by rw [List.length_drop]; omega)]

theorem length_le_cmacBlockCount (M : Bytes) : M.length ≤ 16 * cmacBlockCount M := by
  rw [cmacBlockCount, blockCount]; omega

section
variable {enc : Cipher} {s : State} {M : Bytes}

/-- With the subkeys derived, R91's multiplexer on the registers of `M` gives R96's last block. -/
theorem State.Absorbed.finalBlock_eq (h : s.Absorbed enc M) :
    finalBlock (s.setSubkeys (subkeySeed enc s.keyBytes)) = cmacLastBlock enc s.keyBytes M := by
  have hfull : s.buflen = Config.blockBytes ↔ 1 ≤ M.length ∧ M.length % 16 = 0 := by
    rw [h.buflen]; exact bufLenAfter_eq_full_iff M.length
  have hlen : (s.setSubkeys (subkeySeed enc s.keyBytes)).buflen = s.buflen := rfl
  obtain ⟨-, hb, -⟩ := (State.absorbed_iff enc s M).mp h
  simp only [finalBlock, hlen, cmacLastBlock, hfull, slice_last_block (length_le_cmacBlockCount M),
    slice_last_block (Nat.le_refl M.length), State.setSubkeys_buf, hb, State.setSubkeys_k1, State.setSubkeys_k2]

theorem State.Absorbed.finalRequest_eq (h : s.Absorbed enc M) (hv : s.skvalid = false) :
    s.finalRequest enc = cmacFinalRequest enc s.keyBytes M := by
  obtain ⟨-, -, hc⟩ := (State.absorbed_iff enc s M).mp h
  rw [State.finalRequest, State.withDerivedSubkeys, hv, if_neg (by decide), cmacFinalRequest, cmacBlockCount_sub_one,
    ← hc, ← h.finalBlock_eq, subkeySeed]

/-- The transactions after the chain in R96: `L`, then `T`. -/
def cmacClosingTxns (enc : Cipher) (k : Bytes) (M : Bytes) : List PortTxn :=
  [⟨k, 0#128, .ok (subkeySeed enc k)⟩, ⟨k, cmacFinalRequest enc k M, .ok (enc k (cmacFinalRequest enc k M))⟩]

theorem State.Absorbed.finalizeTxns_eq (h : s.Absorbed enc M) (hv : s.skvalid = false) :
    s.finalizeTxns enc = cmacClosingTxns enc s.keyBytes M := by
  rw [State.finalizeTxns, State.finalAnswer, h.finalRequest_eq hv, hv]
  rfl

end

/-- FINALIZE on the registers of `M` with a port that answers returns R96's tag. -/
theorem State.Absorbed.execFinalize_eq {s : State} {M : Bytes} (h : s.Absorbed Config.encrypt M)
    (hv : s.skvalid = false) (hp : s.portAnswers 2) : execFinalize s =
      .next ((s.logTxns (cmacClosingTxns Config.encrypt s.keyBytes M)).terminate.respond .ok
        (cmacTag Config.encrypt s.keyBytes s.tagsize.val M)) := by
  rw [cmacTag, ← h.finalRequest_eq hv, ← h.finalizeTxns_eq hv]
  refine execFinalize_answers h.ready ?_
  rw [h.finalizeTxns_eq hv]
  exact hp

/-! ### Updates one after the other -/

theorem chainTxns_append_left (enc : Cipher) (k : Bytes) (C : Block) (M P : Bytes) (q : Nat) (h : 16 * q ≤ M.length) :
    chainTxns enc k C (M ++ P) q = chainTxns enc k C M q := by
  refine List.map_congr_left fun j hj => ?_
  have hj : j < q := List.mem_range.mp hj
  rw [chainRequest, chainRequest, chainFrom_append_left enc k C M P j (by omega),
    chainFrom_append_left enc k C M P (j + 1) (by omega), messageBlock_append M P j (by omega)]

/-- The transactions of a chain of `q + n` blocks are those of its first `q` blocks and of the chain continued. -/
theorem chainTxns_add (enc : Cipher) (k : Bytes) (C : Block) (D : Bytes) (q n : Nat) :
    chainTxns enc k C D (q + n) =
      chainTxns enc k C D q ++ chainTxns enc k (chainFrom enc k C D q) (D.drop (16 * q)) n := by
  simp only [chainTxns, List.range_add, List.map_append, List.map_map]
  congr 1
  refine List.map_congr_left fun j _ => ?_
  rw [Function.comp_apply, chainRequest, chainRequest, messageBlock_drop, Nat.add_assoc, chainFrom_add, chainFrom_add]

/-- Chaining on over what was left and more bytes is one chain over all of them. -/
theorem State.chained_chained (s : State) (enc : Cipher) (D E : Bytes) (q n : Nat) (B B' : Bytes)
    (h : 16 * q ≤ D.length) : (s.chained enc D q B []).chained enc (D.drop (16 * q) ++ E) n B' [] =
      s.chained enc (D ++ E) (q + n) B' [] := by
  have hD : D.drop (16 * q) ++ E = (D ++ E).drop (16 * q) := (List.drop_append_of_le_length h).symm
  simp only [State.chained, hD, List.append_nil, chainFrom_add, chainTxns_add, chainFrom_append_left enc _ _ D E q h,
    chainTxns_append_left enc _ _ D E q h, ← State.logTxns_logTxns]
  rfl

/-- The state in which Absorb ends when the port answers (R81). -/
def State.afterAbsorb (s : State) (P : Bytes) : State :=
  s.chained Config.encrypt (s.buf ++ P) (absorbTxnCount s.buf.length P.length)
    ((s.buf ++ P).drop (16 * absorbTxnCount s.buf.length P.length)) []

/-- `n` responses `(OK, [])` returned. -/
def State.respondOks (s : State) (n : Nat) : State :=
  { s with responses := s.responses ++ List.replicate n ⟨.ok, []⟩ }

theorem State.respondOks_zero (s : State) : s.respondOks 0 = s := by
  simp [State.respondOks]

theorem State.respond_respondOks (s : State) (n : Nat) : (s.respond .ok []).respondOks n = s.respondOks (n + 1) := by
  simp [State.respondOks, State.respond, List.replicate_succ]

theorem State.afterAbsorb_nil (s : State) (hb : s.buf.length ≤ 16) : s.afterAbsorb [] = s := by
  have hn : absorbTxnCount s.buf.length 0 = 0 := by simp only [absorbTxnCount, blockCount]; omega
  simp [State.afterAbsorb, State.chained, hn, chainFrom, chainTxns]

theorem absorbTxnCount_le (b p : Nat) : 16 * absorbTxnCount b p ≤ b + p := by
  simp only [absorbTxnCount, blockCount]; omega

/-- Two payloads absorbed one after the other are their concatenation absorbed at once (R105). -/
theorem State.afterAbsorb_append (s : State) (P Q : Bytes) :
    (s.afterAbsorb P).afterAbsorb Q = s.afterAbsorb (P ++ Q) := by
  have hle : 16 * absorbTxnCount s.buf.length P.length ≤ (s.buf ++ P).length := by
    rw [List.length_append]; exact absorbTxnCount_le _ _
  have hbuf : (s.afterAbsorb P).buf = (s.buf ++ P).drop (16 * absorbTxnCount s.buf.length P.length) := rfl
  have hcount : absorbTxnCount s.buf.length (P ++ Q).length =
      absorbTxnCount s.buf.length P.length + absorbTxnCount (s.afterAbsorb P).buf.length Q.length := by
    rw [List.length_append, absorbTxnCount_add, hbuf, List.length_drop, List.length_append]
  have hwhole : s.afterAbsorb (P ++ Q) = s.chained Config.encrypt (s.buf ++ P ++ Q)
      (absorbTxnCount s.buf.length P.length + absorbTxnCount (s.afterAbsorb P).buf.length Q.length)
      (((s.afterAbsorb P).buf ++ Q).drop (16 * absorbTxnCount (s.afterAbsorb P).buf.length Q.length)) [] := by
    rw [State.afterAbsorb, hcount, ← List.append_assoc, Nat.mul_add, ← List.drop_drop,
      List.drop_append_of_le_length hle, ← hbuf]
  rw [hwhole]
  exact State.chained_chained s Config.encrypt (s.buf ++ P) Q _ _ _ _ hle

theorem State.updated_eq (s : State) (P : Bytes) : s.updated P = (s.afterAbsorb P).respond .ok [] := rfl

theorem State.updated_afterAbsorb (s : State) (P Q : Bytes) :
    (s.updated P).afterAbsorb Q = (s.afterAbsorb (P ++ Q)).respond .ok [] := by
  rw [State.updated_eq, ← State.afterAbsorb_append]
  rfl

/-- Updates in a row do what one UPDATE of the whole payload does, but for the number of responses (R84, R105). -/
theorem runInstrs_updates (parts : List Bytes) (s : State) (hr : s.seq = .ready) (hb : s.buf.length ≤ 16)
    (h : s.portAnswers (absorbTxnCount s.buf.length parts.flatten.length)) :
    runInstrs (parts.map Instr.update) s = .next ((s.afterAbsorb parts.flatten).respondOks parts.length) := by
  induction parts generalizing s with
  | nil =>
    rw [List.flatten_nil, s.afterAbsorb_nil hb, List.length_nil, State.respondOks_zero]
    rfl
  | cons P parts ih =>
    rw [List.flatten_cons, List.length_append, absorbTxnCount_add, ← s.updated_buf_length P] at h
    have hfirst : execUpdate P s = .next (s.updated P) :=
      execUpdate_answers s P hr hb (State.portAnswers_mono h (Nat.le_add_right _ _))
    have hrest := ih (s.updated P) hr (s.updated_buf_length P ▸ length_sub_absorbTxnCount_le _ _)
      (s.updated_portAnswers P h)
    rw [List.map_cons, runInstrs_cons, exec_update, hfirst, andThen, hrest, State.updated_afterAbsorb,
      State.respond_respondOks, List.flatten_cons, List.length_cons]

theorem runInstrs_append (is js : List Instr) (s : State) :
    runInstrs (is ++ js) s = andThen (runInstrs is s) (runInstrs js) := by
  induction is generalizing s with
  | nil => rfl
  | cons i is ih =>
    rw [List.cons_append, runInstrs_cons, runInstrs_cons]
    cases exec i s with
    | next t => exact ih t
    | fault f => rfl
    | refused r => rfl

theorem runInstrs_singleton (i : Instr) (s : State) : runInstrs [i] s = exec i s := by
  rw [runInstrs_cons]
  cases exec i s <;> rfl

/-! ### Whole instances -/

/-- The draws after an Absorb are those behind its own transactions. -/
theorem State.afterAbsorb_portAnswers {s : State} {P : Bytes} {m : Nat}
    (h : s.portAnswers (absorbTxnCount s.buf.length P.length + m)) : (s.afterAbsorb P).portAnswers m :=
  s.updated_portAnswers P h

/-- Once an instance is over, what is left of an Absorb are its transactions. -/
theorem State.afterAbsorb_terminate (s : State) (P : Bytes) (n : Nat) (es : List PortTxn) :
    (((s.afterAbsorb P).respondOks n).logTxns es).terminate =
      (s.logTxns (chainTxns Config.encrypt s.keyBytes s.cv (s.buf ++ P) (absorbTxnCount s.buf.length P.length) ++
        es)).terminate.respondOks n := by
  rw [State.afterAbsorb, State.chained, List.append_nil, ← State.logTxns_logTxns]
  rfl

/-- The state before FINALIZE: a new instance that absorbed `M` in `n` updates. -/
def State.instanceAfter (s : State) (t : Nat) (k : Bytes) (n : Nat) (M : Bytes) : State :=
  (((s.loadInstance t k).respond .ok []).afterAbsorb M).respondOks n

section
variable {s : State} {t : Nat} {k : Bytes}

theorem runInstrs_new_updates (hv : newArgsValid t k = true) (parts : List Bytes)
    (h : s.portAnswers (absorbTxnCount 0 parts.flatten.length)) :
    runInstrs (.new t k :: parts.map Instr.update) s = .next (s.instanceAfter t k parts.length parts.flatten) := by
  rw [runInstrs_cons, exec_new, execNew_valid s hv]
  exact runInstrs_updates parts _ rfl (Nat.zero_le _) h

theorem State.instanceAfter_absorbed (n : Nat) (M : Bytes) :
    (s.instanceAfter t k n M).Absorbed Config.encrypt M := by
  have hnew : ((s.loadInstance t k).respond .ok []).Absorbed Config.encrypt [] :=
    (State.respond_absorbed _ _ _ _ _).mpr (s.loadInstance_absorbed _ t k)
  have hM := (State.absorbed_iff _ _ _).mp (hnew.chained M [])
  exact (State.absorbed_iff _ _ _).mpr hM

theorem State.instanceAfter_portAnswers {M : Bytes} {m : Nat} (h : s.portAnswers (absorbTxnCount 0 M.length + m))
    (n : Nat) : (s.instanceAfter t k n M).portAnswers m :=
  State.afterAbsorb_portAnswers (s := (s.loadInstance t k).respond .ok []) h

/-- Once the instance is over, what is left of it are its transactions and its responses. -/
theorem State.instanceAfter_terminate (hv : newArgsValid t k = true) (n : Nat) (M : Bytes) (es : List PortTxn) :
    ((s.instanceAfter t k n M).logTxns es).terminate =
      (s.logTxns (chainTxns Config.encrypt k 0#128 M (absorbTxnCount 0 M.length) ++
        es)).terminate.respondOks (n + 1) := by
  rw [State.instanceAfter, State.afterAbsorb_terminate, State.respond_keyBytes, s.loadInstance_keyBytes hv,
    ← State.respond_respondOks]
  rfl

/-- The updates of an instance chain every block of its message but the last (R84). -/
theorem cmacTxns_eq (enc : Cipher) (M : Bytes) : cmacTxns enc k M =
    chainTxns enc k 0#128 M (absorbTxnCount 0 M.length) ++ cmacClosingTxns enc k M := by
  rw [cmacTxns, cmacBlockCount_sub_one, absorbTxnCount, Nat.zero_add]
  rfl

/-- NEW, updates and FINALIZE with a port that answers, as one state: the transactions of R96, the end of the instance,
and the responses with the tag of the whole message. -/
theorem runInstrs_instance (hv : newArgsValid t k = true) (parts : List Bytes)
    (h : s.portAnswers (cmacBlockCount parts.flatten + 1)) :
    runInstrs (.new t k :: (parts.map Instr.update ++ [.finalize])) s =
      .next (((s.logTxns (cmacTxns Config.encrypt k parts.flatten)).terminate.respondOks (parts.length + 1)).respond .ok
        (cmacTag Config.encrypt k t parts.flatten)) := by
  have hcount : cmacBlockCount parts.flatten + 1 = absorbTxnCount 0 parts.flatten.length + 2 := by
    simp only [cmacBlockCount, absorbTxnCount, blockCount]; omega
  rw [hcount] at h
  have hkey : (s.instanceAfter t k parts.length parts.flatten).keyBytes = k := s.loadInstance_keyBytes hv
  have htag : (s.instanceAfter t k parts.length parts.flatten).tagsize.val = t := (loadInstance_lengths hv).2
  rw [← List.cons_append, runInstrs_append,
    runInstrs_new_updates hv parts (State.portAnswers_mono h (Nat.le_add_right _ _)), andThen, runInstrs_singleton,
    exec_finalize, (State.instanceAfter_absorbed _ _).execFinalize_eq rfl (State.instanceAfter_portAnswers h _),
    State.instanceAfter_terminate hv, hkey, htag, cmacTxns_eq]

end

theorem cmacTag_length (enc : Cipher) (k : Bytes) {t : Nat} (ht : t ≤ 16) (M : Bytes) :
    (cmacTag enc k t M).length = t := by
  rw [cmacTag, truncate_length, Nat.min_eq_left ht]

/-- Settles O39, from the state in which the instance ends. -/
theorem instanceComputesCmac : Obligations.InstanceComputesCmac := by
  unfold Obligations.InstanceComputesCmac
  intro t k parts s hk h1 h16 h
  have hv : newArgsValid t k = true := (newArgsValid_iff t k).mpr ⟨hk, h1, h16⟩
  exact ⟨_, runInstrs_instance hv parts h, rfl, cmacTag_length _ k h16 _, rfl, rfl, State.terminate_zeroed s⟩

/-- R95: the empty message has no chain, and its last block is the padded empty block under `K2`. -/
theorem cmacFinalRequest_nil (enc : Cipher) (k : Bytes) : cmacFinalRequest enc k [] =
    0x80000000000000000000000000000000#128 ^^^ doubleGF (doubleGF (enc k 0#128)) := by
  have hpad : Block.ofBytes (pad []) = 0x80000000000000000000000000000000#128 := by decide
  have hlast : cmacLastBlock enc k [] = Block.ofBytes (pad []) ^^^ doubleGF (doubleGF (enc k 0#128)) := rfl
  have hchain : chainFrom enc k 0#128 [] (cmacBlockCount [] - 1) = 0#128 := rfl
  rw [cmacFinalRequest, hlast, hchain, hpad, BitVec.xor_zero]

/-- Settles O41: zero-length updates leave the message empty. -/
theorem emptyMessageTakesThePaddingBranch : Obligations.EmptyMessageTakesThePaddingBranch := by
  unfold Obligations.EmptyMessageTakesThePaddingBranch
  intro t n k s hk h1 h16 h
  have hv : newArgsValid t k = true := (newArgsValid_iff t k).mpr ⟨hk, h1, h16⟩
  have hM : (List.replicate n ([] : Bytes)).flatten = [] := List.flatten_replicate_nil
  have hrun := runInstrs_instance (s := s) hv (List.replicate n []) (by rw [hM]; exact h)
  rw [List.map_replicate] at hrun
  refine ⟨_, hrun, ?_⟩
  rw [hM, State.respond_responses, List.getLast?_concat, cmacTag, cmacFinalRequest_nil, truncate]

end Sys2Proof.Machine

/-! PROOFS. The sequencer of 43_sequencer.md: dispatch (R100), the three commands by what the port does with their
transactions (R101 to R103), the transition table over them (R104), the freedom to split a message (R105), and the
core without an instance (R106). -/

namespace Sys2Proof.Machine

/-! ### Dispatch and NEW -/

/-- Settles O17: the presented command is decoded, and what it decodes to is run. -/
theorem stepRunsTheDecodedInstruction : Obligations.StepRunsTheDecodedInstruction := by
  unfold Obligations.StepRunsTheDecodedInstruction
  intro s c es i hi hd
  rw [step_of_inbox_command hi, runCommand_of_decode hd]
  rfl

theorem newArgsValid_eq_false_iff (t : Nat) (P : Bytes) :
    newArgsValid t P = false ↔ ¬ ((P.length = 16 ∨ P.length = 32) ∧ 1 ≤ t ∧ t ≤ 16) := by
  rw [← newArgsValid_iff, Bool.not_eq_true]

/-- Settles O23: valid arguments load the registers they fit, other arguments give an error entry that writes none. -/
theorem newBuildsAnInstanceOrChangesNothing : Obligations.NewBuildsAnInstanceOrChangesNothing := by
  unfold Obligations.NewBuildsAnInstanceOrChangesNothing
  intro t P s
  refine ⟨fun hP h1 h16 => ?_, fun h => ?_, fun ht => encode_new ht P⟩
  · have hv : newArgsValid t P = true := (newArgsValid_iff t P).mpr ⟨hP, h1, h16⟩
    obtain ⟨hkeylen, htagsize⟩ := loadInstance_lengths hv
    exact ⟨execNew_valid s hv, keyRegister_toList P (by omega), hkeylen, htagsize⟩
  · exact execNew_invalid s ((newArgsValid_eq_false_iff t P).mpr h)

/-! ### UPDATE by what the port does -/

/-- Of the next `n` transactions the port answers every one, or there is a first one that it fails or never answers. -/
theorem State.portAnswers_or_stops (s : State) (n : Nat) :
    s.portAnswers n ∨ ∃ j, j < n ∧ s.portAnswers j ∧ (s.fateAt j = .fails ∨ s.fateAt j = .silent) := by
  induction n with
  | zero => exact .inl fun j hj => absurd hj (Nat.not_lt_zero j)
  | succ n ih =>
    obtain hn | ⟨j, hj, hstop⟩ := ih
    · cases hf : s.fateAt n with
      | answers => exact .inl (Nat.forall_lt_succ_right.mpr ⟨hn, hf⟩)
      | fails => exact .inr ⟨n, Nat.lt_succ_self n, hn, .inl hf⟩
      | silent => exact .inr ⟨n, Nat.lt_succ_self n, hn, .inr hf⟩
    · exact .inr ⟨j, Nat.lt_succ_of_lt hj, hstop⟩

/-- The transactions of an UPDATE whose port answers `j` of them and fails the next (R80, R116). -/
def State.failedUpdateTxns (s : State) (P : Bytes) (j : Nat) : List PortTxn :=
  chainTxns Config.encrypt s.keyBytes s.cv (s.buf ++ P) j ++
    [stoppedTxn Config.encrypt s.keyBytes s.cv (s.buf ++ P) j .fail]

@[simp] theorem State.failedUpdateTxns_length (s : State) (P : Bytes) (j : Nat) :
    (s.failedUpdateTxns P j).length = j + 1 := by
  simp [State.failedUpdateTxns]

section
variable {s : State} {P : Bytes} {j : Nat}

theorem execUpdate_of_not_ready (hr : s.seq ≠ .ready) : execUpdate P s = .next (s.respond (.error .stateError) []) := by
  rw [execUpdate, updateWith, if_neg hr, State.errorEntry_stateError]

/-- What the failed Absorb had written to the accumulator is forgotten with the instance (R24, R116). -/
theorem execUpdate_fails (hr : s.seq = .ready) (hb : s.buf.length ≤ 16)
    (hj : j < absorbTxnCount s.buf.length P.length) (h : s.portAnswers j) (hf : s.fateAt j = .fails) :
    execUpdate P s = .next ((s.logTxns (s.failedUpdateTxns P j)).terminate.respond (.error .cipherError) []) := by
  rw [execUpdate, updateWith, if_pos hr, (absorb_stops Config.encrypt P s j hb hj h).1 hf, Op.finish_raised]
  rfl

theorem execUpdate_hangs (hr : s.seq = .ready) (hb : s.buf.length ≤ 16)
    (hj : j < absorbTxnCount s.buf.length P.length) (h : s.portAnswers j) (hf : s.fateAt j = .silent) :
    execUpdate P s = .fault .portNeverAnswers := by
  rw [execUpdate, updateWith, if_pos hr, (absorb_stops Config.encrypt P s j hb hj h).2 hf, Op.finish_hung]

end

/-- Settles O25, from the state that Absorb leaves, whose transactions are `n`. -/
theorem updateChainsAllButTheLastBlock : Obligations.UpdateChainsAllButTheLastBlock := by
  unfold Obligations.UpdateChainsAllButTheLastBlock
  rintro P s n hr hb rfl h
  rw [exec_update, execUpdate_answers s P hr hb h, State.updated, State.chained, List.append_nil, State.logTxns,
    chainTxns_length]
  rfl

/-- Settles O29: the transactions that were answered and the failed one are all that the ended instance leaves. -/
theorem updatePortFailureEndsTheInstance : Obligations.UpdatePortFailureEndsTheInstance := by
  unfold Obligations.UpdatePortFailureEndsTheInstance
  intro P s j hr hb hj h hf
  rw [exec_update, execUpdate_fails hr hb hj h hf, State.logTxns, State.failedUpdateTxns_length,
    State.failedUpdateTxns, ← List.append_assoc]
  rfl

/-- Settles O27: there is no byte to absorb. -/
theorem emptyUpdateChangesNothing : Obligations.EmptyUpdateChangesNothing := by
  unfold Obligations.EmptyUpdateChangesNothing
  intro s hr
  exact execUpdate_ready (P := []) hr rfl

theorem State.terminate_respond_zeroed (s : State) (st : Status) (r : Bytes) :
    (s.terminate.respond st r).zeroed = true :=
  s.terminate_zeroed

theorem State.respond_sameRegisters (s : State) (st : Status) (r : Bytes) : s.sameRegisters (s.respond st r) :=
  ⟨rfl, rfl, rfl, rfl, rfl, rfl, rfl, rfl, rfl⟩

/-- Settles O31, from the three ways in which an UPDATE answers. -/
theorem updateFrame : Obligations.UpdateFrame := by
  unfold Obligations.UpdateFrame
  intro P s t h
  obtain ⟨-, rfl⟩ | ⟨hr, C, B, es, -, -, rfl⟩ | ⟨hr, C, B, es, -, -, rfl⟩ := execUpdate_next h
  · exact ⟨rfl, List.prefix_append _ _, List.prefix_rfl,
      .inr (.inl ⟨rfl, s.respond_sameRegisters _ _, rfl, rfl, rfl⟩)⟩
  · exact ⟨rfl, List.prefix_append _ _, List.prefix_append _ _,
      .inl ⟨rfl, hr, hr, rfl, rfl, rfl, rfl, rfl, rfl⟩⟩
  · exact ⟨rfl, List.prefix_append _ _, List.prefix_append _ _,
      .inr (.inr ⟨rfl, hr, rfl, State.terminate_respond_zeroed _ _ _⟩)⟩

/-! ### FINALIZE by what the port does -/

section
variable {s : State}

theorem State.finalRequest_derived (enc : Cipher) (hv : s.skvalid = true) :
    s.finalRequest enc = finalBlock s ^^^ s.cv := by
  rw [State.finalRequest, State.withDerivedSubkeys, if_pos hv]

theorem State.finalRequest_derives (enc : Cipher) (hv : s.skvalid = false) :
    s.finalRequest enc = finalBlock (s.setSubkeys (enc s.keyBytes 0#128)) ^^^ s.cv := by
  rw [State.finalRequest, State.withDerivedSubkeys, hv, if_neg Bool.false_ne_true]

theorem execFinalize_of_not_ready (hr : s.seq ≠ .ready) :
    execFinalize s = .next (s.respond (.error .stateError) []) := by
  rw [execFinalize, finalizeWith, if_neg hr, State.errorEntry_stateError]

theorem execFinalize_derivation_fails (hr : s.seq = .ready) (hv : s.skvalid = false) (hf : s.fateAt 0 = .fails) :
    execFinalize s =
      .next ((s.logTxns [⟨s.keyBytes, 0#128, .fail⟩]).terminate.respond (.error .cipherError) []) :=
  execFinalize_of_raised hr (finalizeBody_of_derivation_fails _ s hv hf)

theorem execFinalize_final_call_fails (hr : s.seq = .ready) (hv : s.skvalid = false) (h0 : s.fateAt 0 = .answers)
    (hf : s.fateAt 1 = .fails) : execFinalize s =
      .next ((s.logTxns [⟨s.keyBytes, 0#128, .ok (Config.encrypt s.keyBytes 0#128)⟩,
        ⟨s.keyBytes, s.finalRequest Config.encrypt, .fail⟩]).terminate.respond (.error .cipherError) []) := by
  rw [execFinalize_of_raised hr (finalizeBody_of_final_call_fails _ s hv h0 hf), ← State.finalRequest_derives _ hv,
    ← State.logTxns_setSubkeys, State.setSubkeys_terminate]

theorem execFinalize_hangs (hr : s.seq = .ready) (hv : s.skvalid = false)
    (h : s.fateAt 0 = .silent ∨ (s.fateAt 0 = .answers ∧ s.fateAt 1 = .silent)) :
    execFinalize s = .fault .portNeverAnswers := by
  rw [execFinalize, finalizeWith, if_pos hr]
  obtain h0 | ⟨h0, h1⟩ := h
  · rw [finalizeBody_derives _ s hv, deriveSubkeys, portEncrypt_silent _ s _ h0, Op.bind_hung, Op.bind_hung,
      Op.finish_hung]
  · rw [finalizeBody_of_derivation_answers _ s hv h0, closeInstance, finalEncrypt,
      portEncrypt_silent _ _ _ (by simpa using h1), Op.bind_hung, Op.finish_hung]

end

/-- Settles O35: the hypotheses spell out the final request and its answer, with and without derived subkeys. -/
theorem finalizeReturnsTheTag : Obligations.FinalizeReturnsTheTag := by
  unfold Obligations.FinalizeReturnsTheTag
  rintro s L K1 K2 Mlast T hr hsub hM rfl h
  rw [← State.finalizeTxns_length Config.encrypt] at h
  rw [exec_finalize, execFinalize_answers hr h, State.logTxns, State.finalizeTxns_length, State.finalizeTxns,
    ← List.append_assoc]
  cases hv : s.skvalid with
  | true =>
    rw [if_pos hv] at hsub
    obtain ⟨rfl, rfl⟩ := hsub
    obtain rfl : Mlast = finalBlock s := hM
    rw [State.finalAnswer, State.finalRequest_derived _ hv]
    rfl
  | false =>
    rw [hv] at hsub
    obtain ⟨rfl, rfl, rfl⟩ := hsub
    obtain rfl : Mlast = finalBlock (s.setSubkeys (Config.encrypt s.keyBytes 0#128)) := hM
    rw [State.finalAnswer, State.finalRequest_derives _ hv]
    rfl

/-- Settles O37, from the three ways in which a FINALIZE answers. -/
theorem finalizeFrame : Obligations.FinalizeFrame := by
  unfold Obligations.FinalizeFrame
  intro s t h
  obtain ⟨hr, rfl⟩ | ⟨hr, tag, u, es, -, -, -, rfl⟩ | ⟨hr, u, es, -, -, -, rfl⟩ := execFinalize_next h
  · exact ⟨rfl, List.prefix_append _ _, List.prefix_rfl,
      fun _ => ⟨s.respond_sameRegisters _ _, rfl, rfl, rfl, rfl⟩, fun h => absurd h hr⟩
  · exact ⟨rfl, List.prefix_append _ _, List.prefix_append _ _, fun h => absurd hr h,
      fun _ => ⟨rfl, State.terminate_respond_zeroed _ _ _⟩⟩
  · exact ⟨rfl, List.prefix_append _ _, List.prefix_append _ _, fun h => absurd hr h,
      fun _ => ⟨rfl, State.terminate_respond_zeroed _ _ _⟩⟩

/-! ### The transition table -/

/-- The rows of R104: how the command that decodes as given answers from `s`, by the sequencer state, the arguments
and the port, for an instance whose subkeys are not derived. -/
inductive TableRow (s : State) : Decoded → State → Prop where
  | illegal {w : Illegal} : TableRow s (.illegal w) (s.respond (.error .illegalCommand) [])
  | newStarts {n : Nat} {P : Bytes} (hv : newArgsValid n P = true) :
      TableRow s (.instr (.new n P)) ((s.loadInstance n P).respond .ok [])
  | newRefused {n : Nat} {P : Bytes} (hv : newArgsValid n P = false) :
      TableRow s (.instr (.new n P)) (s.respond (.error .invalidArgument) [])
  | updateRefused {P : Bytes} (hr : s.seq ≠ .ready) :
      TableRow s (.instr (.update P)) (s.respond (.error .stateError) [])
  | updated {P : Bytes} (hr : s.seq = .ready) (hp : s.portAnswers (absorbTxnCount s.buf.length P.length)) :
      TableRow s (.instr (.update P)) (s.updated P)
  | updateFails {P : Bytes} {j : Nat} (hr : s.seq = .ready) (hj : j < absorbTxnCount s.buf.length P.length)
      (hp : s.portAnswers j) (hf : s.fateAt j = .fails) :
      TableRow s (.instr (.update P))
        ((s.logTxns (s.failedUpdateTxns P j)).terminate.respond (.error .cipherError) [])
  | finalizeRefused (hr : s.seq ≠ .ready) : TableRow s (.instr .finalize) (s.respond (.error .stateError) [])
  | tagged (hr : s.seq = .ready) (hv : s.skvalid = false) (hp : s.portAnswers 2) :
      TableRow s (.instr .finalize) ((s.logTxns (s.finalizeTxns Config.encrypt)).terminate.respond .ok
        (truncate (s.finalAnswer Config.encrypt) s.tagsize.val))
  | derivationFails (hr : s.seq = .ready) (hf : s.fateAt 0 = .fails) :
      TableRow s (.instr .finalize)
        ((s.logTxns [⟨s.keyBytes, 0#128, .fail⟩]).terminate.respond (.error .cipherError) [])
  | finalCallFails (hr : s.seq = .ready) (h0 : s.fateAt 0 = .answers) (hf : s.fateAt 1 = .fails) :
      TableRow s (.instr .finalize)
        ((s.logTxns [⟨s.keyBytes, 0#128, .ok (Config.encrypt s.keyBytes 0#128)⟩,
          ⟨s.keyBytes, s.finalRequest Config.encrypt, .fail⟩]).terminate.respond (.error .cipherError) [])

/-- The command never completes, because the port never answers one of the coming transactions (R137). -/
def NeverCompletes (s : State) (o : Host.Outcome State Fault Refusal) : Prop :=
  o = .fault .portNeverAnswers ∧ s.seq = .ready ∧ ∃ j, s.fateAt j = .silent

theorem execNew_row (n : Nat) (P : Bytes) (s : State) :
    ∃ t, execNew n P s = .next t ∧ TableRow s (.instr (.new n P)) t := by
  cases hv : newArgsValid n P with
  | true => exact ⟨_, execNew_valid s hv, .newStarts hv⟩
  | false => exact ⟨_, execNew_invalid s hv, .newRefused hv⟩

section
variable {s : State}

theorem execUpdate_row (P : Bytes) (hb : s.seq = .ready → s.buf.length ≤ 16) :
    NeverCompletes s (execUpdate P s) ∨ ∃ t, execUpdate P s = .next t ∧ TableRow s (.instr (.update P)) t := by
  by_cases hr : s.seq = .ready
  · obtain hp | ⟨j, hj, hp, hf | hf⟩ := s.portAnswers_or_stops (absorbTxnCount s.buf.length P.length)
    · exact .inr ⟨_, execUpdate_answers s P hr (hb hr) hp, .updated hr hp⟩
    · exact .inr ⟨_, execUpdate_fails hr (hb hr) hj hp hf, .updateFails hr hj hp hf⟩
    · exact .inl ⟨execUpdate_hangs hr (hb hr) hj hp hf, hr, j, hf⟩
  · exact .inr ⟨_, execUpdate_of_not_ready hr, .updateRefused hr⟩

theorem execFinalize_row (hv : s.seq = .ready → s.skvalid = false) :
    NeverCompletes s (execFinalize s) ∨ ∃ t, execFinalize s = .next t ∧ TableRow s (.instr .finalize) t := by
  by_cases hr : s.seq = .ready
  · have hv := hv hr
    obtain hp | ⟨j, hj, hp, hf⟩ := s.portAnswers_or_stops 2
    · exact .inr ⟨_, execFinalize_answers hr (by rw [State.finalizeTxns_length, hv]; exact hp), .tagged hr hv hp⟩
    · obtain rfl | rfl : j = 0 ∨ j = 1 := by omega
      · obtain hf | hf := hf
        · exact .inr ⟨_, execFinalize_derivation_fails hr hv hf, .derivationFails hr hf⟩
        · exact .inl ⟨execFinalize_hangs hr hv (.inl hf), hr, 0, hf⟩
      · have h0 : s.fateAt 0 = .answers := hp 0 Nat.zero_lt_one
        obtain hf | hf := hf
        · exact .inr ⟨_, execFinalize_final_call_fails hr hv h0 hf, .finalCallFails hr h0 hf⟩
        · exact .inl ⟨execFinalize_hangs hr hv (.inr ⟨h0, hf⟩), hr, 1, hf⟩
  · exact .inr ⟨_, execFinalize_of_not_ready hr, .finalizeRefused hr⟩

/-- From a state of the invariant every command answers a row of the table or never completes (R104). -/
theorem runCommand_row (c : Command) (hs : s.Inv) :
    NeverCompletes s (runCommand c s) ∨ ∃ t, runCommand c s = .next t ∧ TableRow s (decode c) t := by
  have hready (hr : s.seq = .ready) := (State.instanceOk_iff s).mp ((State.inv_iff_instanceOk hr).mp hs)
  cases hd : decode c with
  | illegal w => exact .inr ⟨_, runCommand_of_illegal hd s, .illegal⟩
  | instr i =>
    rw [runCommand_of_decode hd]
    cases i with
    | new n P => exact .inr (execNew_row n P s)
    | update P =>
      refine execUpdate_row P fun hr => ?_
      obtain ⟨-, -, -, -, hb, -⟩ := hready hr
      exact hb
    | finalize =>
      refine execFinalize_row fun hr => ?_
      obtain ⟨-, -, -, -, -, hv, -⟩ := hready hr
      exact hv

end

/-- In READY the tag size is at most that of a whole block (R14). -/
theorem State.Inv.tagsize_le {s : State} (h : s.Inv) (hr : s.seq = .ready) : s.tagsize.val ≤ 16 := by
  obtain ⟨-, -, -, ht, -⟩ := (State.instanceOk_iff s).mp ((State.inv_iff_instanceOk hr).mp h)
  exact ht

/-- Settles O43, row by row. -/
theorem transitionTable : Obligations.TransitionTable := by
  unfold Obligations.TransitionTable
  intro c s hs
  obtain hang | ⟨t, hx, hrow⟩ := runCommand_row c hs
  · exact .inl hang
  right
  generalize decode c = d at hrow
  cases hrow with
  | illegal => exact ⟨_, _, _, 0, hx, rfl, rfl, rfl, rfl, rfl, s.respond_sameRegisters _ _⟩
  | newStarts hv =>
    refine ⟨_, _, _, 0, hx, rfl, rfl, rfl, rfl, ?_⟩
    rw [if_pos ((newArgsValid_iff _ _).mp hv)]
    exact ⟨rfl, rfl, s.loadInstance_keyBytes hv, (loadInstance_lengths hv).2, rfl, rfl, rfl, rfl, rfl⟩
  | newRefused hv =>
    refine ⟨_, _, _, 0, hx, rfl, rfl, rfl, rfl, ?_⟩
    rw [if_neg ((newArgsValid_eq_false_iff _ _).mp hv)]
    exact ⟨rfl, s.respond_sameRegisters _ _⟩
  | updateRefused hr =>
    refine ⟨_, _, _, 0, hx, rfl, rfl, rfl, ?_⟩
    rw [if_neg hr]
    exact ⟨rfl, rfl, s.respond_sameRegisters _ _⟩
  | updated hr hp =>
    refine ⟨_, _, _, _, hx, rfl, s.updated_portTrace_length _, rfl, ?_⟩
    rw [if_pos hr]
    exact .inl ⟨rfl, hr, hp, rfl⟩
  | @updateFails P j hr hj hp hf =>
    refine ⟨_, _, _, j + 1, hx, rfl, by simp, rfl, ?_⟩
    rw [if_pos hr]
    exact .inr ⟨rfl, rfl, State.terminate_respond_zeroed _ _ _, Nat.le_add_left _ _, hj, hp, hf⟩
  | finalizeRefused hr =>
    refine ⟨_, _, _, 0, hx, rfl, rfl, ?_⟩
    dsimp only
    rw [if_neg hr]
    exact ⟨rfl, rfl, rfl, s.respond_sameRegisters _ _⟩
  | tagged hr hv hp =>
    refine ⟨_, _, _, 2, hx, rfl, by simp [State.finalizeTxns_length, hv], ?_⟩
    dsimp only
    rw [if_pos hr, truncate_length, Nat.min_eq_left (hs.tagsize_le hr)]
    exact ⟨rfl, State.terminate_respond_zeroed _ _ _, .inl ⟨rfl, rfl, rfl, hp⟩⟩
  | derivationFails hr hf =>
    refine ⟨_, _, _, 1, hx, rfl, by simp, ?_⟩
    dsimp only
    rw [if_pos hr]
    exact ⟨rfl, State.terminate_respond_zeroed _ _ _, .inr (.inl ⟨rfl, rfl, rfl, hf⟩)⟩
  | finalCallFails hr h0 hf =>
    refine ⟨_, _, _, 2, hx, rfl, by simp, ?_⟩
    dsimp only
    rw [if_pos hr]
    exact ⟨rfl, State.terminate_respond_zeroed _ _ _, .inr (.inr ⟨rfl, rfl, rfl, h0, hf⟩)⟩

/-! ### Splitting a message -/

/-- Settles O40: the state in which an instance ends names the message, and of its split the number of responses
alone. -/
theorem splittingDoesNotMatter : Obligations.SplittingDoesNotMatter := by
  unfold Obligations.SplittingDoesNotMatter
  intro t k parts parts' s hk h1 h16 hM h
  have hv : newArgsValid t k = true := (newArgsValid_iff t k).mpr ⟨hk, h1, h16⟩
  have hrun' := runInstrs_instance hv parts' (hM ▸ h)
  rw [← hM] at hrun'
  exact ⟨_, _, _, runInstrs_instance hv parts h, hrun', List.getLast?_concat, List.getLast?_concat,
    cmacTag_length _ k h16 _, rfl⟩

/-! ### No instance in progress -/

/-- The responses `rs` returned, and nothing else done. -/
def State.respondAll (s : State) (rs : List Response) : State := { s with responses := s.responses ++ rs }

theorem State.respondAll_nil (s : State) : s.respondAll [] = s := by
  rw [State.respondAll, List.append_nil]

theorem State.respondAll_cons (s : State) (r : Response) (rs : List Response) :
    s.respondAll (r :: rs) = (s.respond r.status r.result).respondAll rs := by
  simp [State.respondAll, State.respond]

/-- Without an instance every instruction but a valid NEW gives its response and does nothing else (R104, the rows of
IDLE and FINALIZED). -/
theorem exec_of_not_ready {i : Instr} {s : State} (hr : s.seq ≠ .ready) (hi : startsInstance i = false) :
    exec i s = .next (s.respond (noInstanceResponse i).status (noInstanceResponse i).result) := by
  cases i with
  | new t P => exact execNew_invalid s hi
  | update P => exact execUpdate_of_not_ready hr
  | finalize => exact execFinalize_of_not_ready hr

theorem runInstrs_of_not_ready (is : List Instr) {s : State} (hr : s.seq ≠ .ready)
    (his : ∀ i ∈ is, startsInstance i = false) :
    runInstrs is s = .next (s.respondAll (is.map noInstanceResponse)) := by
  induction is generalizing s with
  | nil => rw [List.map_nil, State.respondAll_nil, runInstrs]
  | cons i is ih =>
    obtain ⟨hi, his⟩ := List.forall_mem_cons.mp his
    rw [runInstrs_cons, exec_of_not_ready hr hi, List.map_cons, State.respondAll_cons]
    exact ih hr his

/-- Settles O42: the run only returns responses. -/
theorem nothingWorksUntilAValidNew : Obligations.NothingWorksUntilAValidNew := by
  unfold Obligations.NothingWorksUntilAValidNew
  intro is s hr his
  exact ⟨_, runInstrs_of_not_ready is hr his, ⟨rfl, rfl, rfl, rfl, rfl, rfl, rfl, rfl, rfl⟩, rfl, rfl⟩

end Sys2Proof.Machine

/-! PROOFS. The exceptions of 60_exceptions.md: which commands return bytes (R57, R117), the StateError of UPDATE and
FINALIZE without an instance (R113), and which check of a command wins (R115). -/

namespace Sys2Proof.Machine

/-! ### Which commands return bytes -/

/-- A row of R104 adds one response: a FINALIZE in READY that completes returns the truncated final answer (R93), and
every other answer is empty (R57, R117). -/
theorem TableRow.response {s t : State} {d : Decoded} (h : TableRow s d t) :
    ∃ r : Response, t.responses = s.responses ++ [r] ∧
      ((d = .instr .finalize ∧ r.status = .ok ∧ s.seq = .ready ∧
          r.result = truncate (s.finalAnswer Config.encrypt) s.tagsize.val) ∨
        (¬ (d = .instr .finalize ∧ r.status = .ok) ∧ r.result = [])) := by
  cases h with
  | tagged hr _ _ => exact ⟨_, rfl, .inl ⟨rfl, rfl, hr, rfl⟩⟩
  | _ => exact ⟨_, rfl, .inr ⟨by simp, rfl⟩⟩

/-- From a state of the invariant a command that completes answers a row of R104. -/
theorem runCommand_next_row {c : Command} {s t : State} (hs : s.Inv) (h : runCommand c s = .next t) :
    TableRow s (decode c) t := by
  obtain ⟨hang, -⟩ | ⟨u, hu, hrow⟩ := runCommand_row c hs
  · rw [h] at hang
    cases hang
  · rw [h] at hu
    cases hu
    exact hrow

/-- Settles O47: the one response with bytes is the tag, which truncation cuts to TAGSIZE, at most a block in READY. -/
theorem onlyAFinishedFinalizeReturnsBytes : Obligations.OnlyAFinishedFinalizeReturnsBytes := by
  unfold Obligations.OnlyAFinishedFinalizeReturnsBytes
  intro c s t hs h
  obtain ⟨r, hr, ⟨hd, hok, hready, htag⟩ | ⟨hnot, hempty⟩⟩ := (runCommand_next_row hs h).response
  · refine ⟨r, hr, fun _ _ => ?_, fun hnot => absurd ⟨hd, hok⟩ hnot⟩
    rw [htag, truncate_length, Nat.min_eq_left (hs.tagsize_le hready)]
  · exact ⟨r, hr, fun hd hok => absurd ⟨hd, hok⟩ hnot, fun _ => hempty⟩

/-! ### Which check wins -/

/-- Settles O24: outside READY neither instruction comes to the port. -/
theorem noInstanceGivesStateError : Obligations.NoInstanceGivesStateError := by
  unfold Obligations.NoInstanceGivesStateError
  intro s hs
  have hr : s.seq ≠ .ready := by
    obtain h | h := hs <;> simp [h]
  exact ⟨fun P => execUpdate_of_not_ready hr, execFinalize_of_not_ready hr⟩

/-- Settles O49: decoding comes before SEQ, SEQ before the port, and NEW looks at its arguments alone. -/
theorem errorPriority : Obligations.ErrorPriority := by
  unfold Obligations.ErrorPriority
  intro c s
  refine ⟨fun ⟨why, hd⟩ => runCommand_of_illegal hd s, fun hd hr => ?_, fun size key hd hargs => ?_⟩
  · obtain ⟨P, hd⟩ | hd := hd
    · exact (runCommand_of_decode hd s).trans (execUpdate_of_not_ready hr)
    · exact (runCommand_of_decode hd s).trans (execFinalize_of_not_ready hr)
  · exact (runCommand_of_decode hd s).trans (execNew_invalid s ((newArgsValid_eq_false_iff size key).mpr hargs))

end Sys2Proof.Machine

/-! PROOFS. Reset and the hazards of 70_reset_and_hazards.md: reset between commands and during one (R130, R131),
overlapping commands (R134), a port that never answers (R137), and what an observer can learn from the number of
requests and the shape of a response (R138). -/

namespace Sys2Proof.Machine

/-! ### The host events that are no commands -/

section
variable {s : State} {es : List HostEvent}

theorem step_of_inbox_reset (h : s.inbox = .reset :: es) : step s = .next (s.withInbox es).resetInput := by
  rw [step, h]

theorem step_of_inbox_commandCutByReset {c : Command} {n : Nat} (h : s.inbox = .commandCutByReset c n :: es) :
    step s = .next ((s.withInbox es).abandonCommand ((commandTxns Config.encrypt c (s.withInbox es)).take n)) := by
  rw [step, h]
  rfl

theorem step_of_inbox_overlap {a b : Command} (h : s.inbox = .overlap a b :: es) :
    step s = .refused .overlappingCommands := by
  rw [step, h]

end

theorem State.resetInput_sameRegisters (s : State) : State.reset.sameRegisters s.resetInput :=
  ⟨rfl, rfl, rfl, rfl, rfl, rfl, rfl, rfl, rfl⟩

theorem State.abandonCommand_sameRegisters (s : State) (txns : List PortTxn) :
    State.reset.sameRegisters (s.abandonCommand txns) :=
  s.resetInput_sameRegisters

/-- Settles O1: the reset values are written out in the model, and the reset input writes them and nothing else. -/
theorem resetSetsEveryRegister : Obligations.ResetSetsEveryRegister := by
  unfold Obligations.ResetSetsEveryRegister
  refine ⟨⟨rfl, rfl, rfl, rfl, rfl, rfl, rfl, rfl, rfl, rfl⟩, fun s es h => ?_⟩
  exact ⟨_, step_of_inbox_reset h, State.resetInput_sameRegisters _, rfl, rfl, rfl⟩

/-- Settles O21: a step takes the overlap event and stops. -/
theorem overlappingCommandsAreRefused : Obligations.OverlappingCommandsAreRefused := by
  unfold Obligations.OverlappingCommandsAreRefused
  intro s a b es h
  exact step_of_inbox_overlap h

/-! ### A command abandoned by reset -/

/-- However its work ends, a command logs transactions that carry the instance's key (R13, R58). -/
theorem commandWork_portTrace (enc : Cipher) (i : Instr) (s : State) :
    ∃ es, (commandWork enc i s).portTrace = s.portTrace ++ es ∧ ∀ e ∈ es, e.key = s.keyBytes := by
  have hnone : ∃ es, s.portTrace = s.portTrace ++ es ∧ ∀ e ∈ es, e.key = s.keyBytes := ⟨[], by simp, by simp⟩
  cases i with
  | new n P => exact hnone
  | update P =>
    rw [commandWork]
    split
    · obtain ⟨C, B, es, hs, hk⟩ := absorb_frame enc P s
      exact ⟨es, by rw [hs]; rfl, hk⟩
    · exact hnone
  | finalize =>
    rw [commandWork]
    split
    · obtain ⟨es, hs | hs, -, hk⟩ := finalizeBody_frame enc s <;> exact ⟨es, by rw [hs]; rfl, hk⟩
    · exact hnone

theorem commandTxns_of_illegal {c : Command} {w : Illegal} (h : decode c = .illegal w) (enc : Cipher) (s : State) :
    commandTxns enc c s = [] := by
  rw [commandTxns, h]

theorem commandTxns_of_decode {c : Command} {i : Instr} (h : decode c = .instr i) (enc : Cipher) (s : State) :
    commandTxns enc c s = (commandWork enc i s).portTrace.drop s.portTrace.length := by
  rw [commandTxns, h]

theorem commandTxns_key (enc : Cipher) (c : Command) (s : State) : ∀ e ∈ commandTxns enc c s, e.key = s.keyBytes := by
  cases hd : decode c with
  | illegal w => simp [commandTxns_of_illegal hd]
  | instr i =>
    obtain ⟨es, hs, hk⟩ := commandWork_portTrace enc i s
    rw [commandTxns_of_decode hd, hs, List.drop_left]
    exact hk

/-- The transactions of a command that answers are those it adds to the port trace. -/
theorem commandTxns_of_next {c : Command} {s t : State} (h : runCommand c s = .next t) :
    commandTxns Config.encrypt c s = t.portTrace.drop s.portTrace.length := by
  cases hd : decode c with
  | illegal w =>
    rw [runCommand_of_illegal hd] at h
    cases h
    simp [commandTxns_of_illegal hd]
  | instr i =>
    rw [runCommand_of_decode hd] at h
    rw [commandTxns_of_decode hd, exec_portTrace h]

/-- Settles O22: the trace keeps the first of the transactions that the command would make. -/
theorem resetAbandonsACommand : Obligations.ResetAbandonsACommand := by
  unfold Obligations.ResetAbandonsACommand
  intro s c n es h
  exact ⟨_, _, step_of_inbox_commandCutByReset h, State.abandonCommand_sameRegisters _ _, rfl, rfl, rfl,
    List.length_take_le _ _, fun e he => commandTxns_key _ c (s.withInbox es) e (List.mem_of_mem_take he),
    fun u hu => congrArg (List.take n) (commandTxns_of_next hu)⟩

/-! ### A port that never answers -/

/-- With the subkeys there the final call is the first transaction, without them the derivation is (R94). -/
theorem execFinalize_hangs_at_once {s : State} (hr : s.seq = .ready) (h : s.fateAt 0 = .silent) :
    execFinalize s = .fault .portNeverAnswers := by
  cases hv : s.skvalid with
  | true =>
    rw [execFinalize, finalizeWith, if_pos hr, finalizeBody_derived _ s hv, closeInstance, finalEncrypt,
      portEncrypt_silent _ s _ h, Op.bind_hung, Op.finish_hung]
  | false => exact execFinalize_hangs hr hv (.inl h)

/-- Settles O30: the operation of the command hangs at that transaction, and a command does not end without it. -/
theorem unansweredTransactionHangs : Obligations.UnansweredTransactionHangs := by
  unfold Obligations.UnansweredTransactionHangs
  refine ⟨fun P s j hr hb hj hp hf => execUpdate_hangs hr hb hj hp hf, fun s hr h => ?_⟩
  obtain h0 | ⟨hv, h0, h1⟩ := h
  · exact execFinalize_hangs_at_once hr h0
  · exact execFinalize_hangs hr hv (.inr ⟨h0, h1⟩)

/-! ### States that differ in secret bytes alone -/

/-- A new instance has an empty buffer (R101). -/
@[simp] theorem State.loadInstance_buflen (s : State) (n : Nat) (P : Bytes) : (s.loadInstance n P).buflen = 0 := rfl

namespace State.publiclyEqual

variable {s t : State}

theorem fateAt (h : s.publiclyEqual t) (j : Nat) : s.fateAt j = t.fateAt j := by
  rw [State.fateAt, State.fateAt, h.portPlan, h.portCount]

theorem logTxns (h : s.publiclyEqual t) {es fs : List PortTxn} (hl : es.length = fs.length) :
    (s.logTxns es).publiclyEqual (t.logTxns fs) where
  seq := h.seq
  keylen := h.keylen
  tagsize := h.tagsize
  buflen := h.buflen
  skvalid := h.skvalid
  portPlan := by rw [State.logTxns_portPlan, State.logTxns_portPlan, h.portPlan, hl]
  portCount := by rw [State.logTxns_portCount, State.logTxns_portCount, h.portCount, hl]

theorem setChain (h : s.publiclyEqual t) (C D : Block) {B E : Bytes} (hl : B.length = E.length) :
    (s.setChain C B).publiclyEqual (t.setChain D E) :=
  { h with buflen := hl }

theorem pushByte (h : s.publiclyEqual t) (d e : Byte) : (s.pushByte d).publiclyEqual (t.pushByte e) :=
  h.setChain _ _ (by simpa [State.buflen] using h.buflen)

theorem setSubkeys (h : s.publiclyEqual t) (L M : Block) : (s.setSubkeys L).publiclyEqual (t.setSubkeys M) :=
  { h with skvalid := rfl }

theorem terminate (h : s.publiclyEqual t) : s.terminate.publiclyEqual t.terminate where
  seq := rfl
  keylen := rfl
  tagsize := rfl
  buflen := rfl
  skvalid := rfl
  portPlan := h.portPlan
  portCount := h.portCount

theorem loadInstance (h : s.publiclyEqual t) (n : Nat) {P Q : Bytes} (hl : P.length = Q.length) :
    (s.loadInstance n P).publiclyEqual (t.loadInstance n Q) := by
  have hkeylen : (s.loadInstance n P).keylen = (t.loadInstance n Q).keylen := by
    rw [State.loadInstance_keylen, State.loadInstance_keylen, hl]
  have hbuflen : (s.loadInstance n P).buflen = (t.loadInstance n Q).buflen := by
    rw [State.loadInstance_buflen, State.loadInstance_buflen]
  exact ⟨rfl, hkeylen, rfl, hbuflen, rfl, h.portPlan, h.portCount⟩

theorem respond (h : s.publiclyEqual t) (st : Status) (r q : Bytes) :
    (s.respond st r).publiclyEqual (t.respond st q) :=
  { h with }

end State.publiclyEqual

/-! ### Operations that end alike -/

/-- Two operations end in the same way, in states that differ in secret bytes alone, with values related by `R`. Where
both hang nothing is compared: the commands never complete (R137). -/
inductive Op.Alike {α : Type} (R : α → α → Prop) : Op α → Op α → Prop where
  | done {a b : α} {u v : State} (hR : R a b) (h : u.publiclyEqual v) : Alike R (.done a u) (.done b v)
  | raised {u v : State} (h : u.publiclyEqual v) : Alike R (.raised u) (.raised v)
  | hung {u v : State} : Alike R (.hung u) (.hung v)

/-- No value of the operation is compared. -/
def anyValues {α : Type} (_ _ : α) : Prop := True

/-- Two results that differ in their bytes alone. -/
def sameLength (a b : Bytes) : Prop := a.length = b.length

theorem Op.Alike.bind {α β : Type} {R : α → α → Prop} {S : β → β → Prop} {x y : Op α} {f g : α → State → Op β}
    (h : Op.Alike R x y)
    (hf : ∀ a b u v, R a b → u.publiclyEqual v → Op.Alike S (f a u) (g b v)) :
    Op.Alike S (x.bind f) (y.bind g) := by
  cases h with
  | done hR h => exact hf _ _ _ _ hR h
  | raised h => exact .raised h
  | hung => exact .hung

section
variable (enc : Cipher) {s t : State}

/-- Which way a transaction ends is the port's draw, whatever is sent (R5, R137). -/
theorem portEncrypt_alike (h : s.publiclyEqual t) (b c : Block) :
    Op.Alike anyValues (portEncrypt enc b s) (portEncrypt enc c t) := by
  have hfate := h.fateAt 0
  cases hs : s.fateAt 0 with
  | answers =>
    rw [portEncrypt_answers enc s b hs, portEncrypt_answers enc t c (hfate ▸ hs)]
    exact .done trivial (h.logTxns rfl)
  | fails =>
    rw [portEncrypt_fails enc s b hs, portEncrypt_fails enc t c (hfate ▸ hs)]
    exact .raised (h.logTxns rfl)
  | silent =>
    rw [portEncrypt_silent enc s b hs, portEncrypt_silent enc t c (hfate ▸ hs)]
    exact .hung

theorem processBlock_alike (h : s.publiclyEqual t) :
    Op.Alike anyValues (processBlock enc s) (processBlock enc t) :=
  (portEncrypt_alike enc h _ _).bind fun _ _ _ _ _ hu => .done trivial (hu.setChain _ _ rfl)

/-- Absorb looks at the buffer's length, not at its bytes, to see whether it has to chain (R81, R83). -/
theorem absorb_alike {P Q : Bytes} (hl : P.length = Q.length) (h : s.publiclyEqual t) :
    Op.Alike anyValues (absorb enc P s) (absorb enc Q t) := by
  induction P generalizing Q s t with
  | nil =>
    obtain rfl : Q = [] := List.eq_nil_of_length_eq_zero hl.symm
    exact .done trivial h
  | cons d ds ih =>
    obtain ⟨e, es, rfl⟩ := List.exists_cons_of_length_eq_add_one hl.symm
    have hds : ds.length = es.length := Nat.succ.inj hl
    rw [absorb, absorb, h.buflen]
    split
    · exact (processBlock_alike enc h).bind fun _ _ _ _ _ hu => ih hds (hu.pushByte d e)
    · exact ih hds (h.pushByte d e)

theorem deriveSubkeys_alike (h : s.publiclyEqual t) :
    Op.Alike anyValues (deriveSubkeys enc s) (deriveSubkeys enc t) :=
  (portEncrypt_alike enc h _ _).bind fun _ _ _ _ _ hu => .done trivial (hu.setSubkeys _ _)

/-- The tag is as long as TAGSIZE says, whatever its bytes are (R93). -/
theorem closeInstance_alike (h : s.publiclyEqual t) :
    Op.Alike sameLength (closeInstance enc s) (closeInstance enc t) := by
  refine (portEncrypt_alike enc h _ _).bind fun T U u v _ hu => .done ?_ hu
  rw [sameLength, truncate_length, truncate_length, hu.tagsize]

theorem finalizeBody_alike (h : s.publiclyEqual t) :
    Op.Alike sameLength (finalizeBody enc s) (finalizeBody enc t) := by
  cases hv : s.skvalid with
  | true =>
    rw [finalizeBody_derived enc s hv, finalizeBody_derived enc t (h.skvalid ▸ hv)]
    exact closeInstance_alike enc h
  | false =>
    rw [finalizeBody_derives enc s hv, finalizeBody_derives enc t (h.skvalid ▸ hv)]
    exact (deriveSubkeys_alike enc h).bind fun _ _ _ _ _ hu => closeInstance_alike enc hu

end

/-! ### Commands that answer alike -/

/-- Two commands hang together, or return the same status and as many bytes, in states that differ in secret bytes
alone (R138). -/
inductive AnswerAlike : Host.Outcome State Fault Refusal → Host.Outcome State Fault Refusal → Prop where
  | hang : AnswerAlike (.fault .portNeverAnswers) (.fault .portNeverAnswers)
  | respond {u v : State} {a b : Bytes} (h : u.publiclyEqual v) (st : Status) (hl : a.length = b.length) :
      AnswerAlike (.next (u.respond st a)) (.next (v.respond st b))

theorem Op.Alike.finish {α : Type} {R : α → α → Prop} {x y : Op α} {k : α → State → State} (h : Op.Alike R x y)
    (hk : ∀ a b u v, R a b → u.publiclyEqual v → AnswerAlike (.next (k a u)) (.next (k b v))) :
    AnswerAlike (x.finish k) (y.finish k) := by
  cases h with
  | done hR h => exact hk _ _ _ _ hR h
  | raised h => exact .respond h.terminate _ rfl
  | hung => exact .hang

section
variable {s t : State}

theorem newArgsValid_congr (n : Nat) {P Q : Bytes} (hl : P.length = Q.length) :
    newArgsValid n P = newArgsValid n Q := by
  rw [newArgsValid, newArgsValid, hl]

theorem execNew_alike (n : Nat) {P Q : Bytes} (hl : P.length = Q.length) (h : s.publiclyEqual t) :
    AnswerAlike (execNew n P s) (execNew n Q t) := by
  have hargs := newArgsValid_congr n hl
  cases hv : newArgsValid n P with
  | true =>
    rw [execNew_valid s hv, execNew_valid t (hargs ▸ hv)]
    exact .respond (h.loadInstance n hl) _ rfl
  | false =>
    rw [execNew_invalid s hv, execNew_invalid t (hargs ▸ hv)]
    exact .respond h _ rfl

theorem execUpdate_alike {P Q : Bytes} (hl : P.length = Q.length) (h : s.publiclyEqual t) :
    AnswerAlike (execUpdate P s) (execUpdate Q t) := by
  rw [execUpdate, execUpdate, updateWith, updateWith, h.seq]
  split
  · exact (absorb_alike _ hl h).finish fun _ _ _ _ _ hu => .respond hu _ rfl
  · exact .respond h _ rfl

theorem execFinalize_alike (h : s.publiclyEqual t) : AnswerAlike (execFinalize s) (execFinalize t) := by
  rw [execFinalize, execFinalize, finalizeWith, finalizeWith, h.seq]
  split
  · exact (finalizeBody_alike _ h).finish fun _ _ _ _ hl hu => .respond hu.terminate _ hl
  · exact .respond h _ rfl

theorem exec_alike {i j : Instr} (hij : sameLengths i j) (h : s.publiclyEqual t) :
    AnswerAlike (exec i s) (exec j t) := by
  match i, j, hij with
  | .new n P, .new _ Q, ⟨rfl, hl⟩ => exact execNew_alike n hl h
  | .update P, .update Q, hl => exact execUpdate_alike hl h
  | .finalize, .finalize, _ => exact execFinalize_alike h

end

/-- The response that an answering instruction adds is the last one of the state it leaves. -/
theorem exec_adds_respond {i : Instr} {s u : State} {st : Status} {a : Bytes} (h : exec i s = .next (u.respond st a)) :
    ∃ es, s.Adds (u.respond st a) [⟨st, a⟩] es := by
  obtain ⟨r, es, hadds⟩ := exec_adds h
  obtain ⟨-, hr⟩ : u.responses = s.responses ∧ [⟨st, a⟩] = [r] := List.append_inj' hadds.responses rfl
  exact ⟨es, hr ▸ hadds⟩

/-- Settles O50: the two commands answer alike, and the transactions that each adds are counted by the draws, which
are public. -/
theorem requestsDependOnLengthsOnly : Obligations.RequestsDependOnLengthsOnly := by
  unfold Obligations.RequestsDependOnLengthsOnly
  intro i j s t hij h
  have halike := exec_alike hij h
  generalize hx : exec i s = o, hy : exec j t = p at halike
  cases halike with
  | hang => exact .inl ⟨rfl, rfl⟩
  | @respond u v a b hu st hl =>
    obtain ⟨es, hes⟩ := exec_adds_respond hx
    obtain ⟨fs, hfs⟩ := exec_adds_respond hy
    have hcount : es.length = fs.length := by
      have hsum : s.portCount + es.length = t.portCount + fs.length :=
        hes.portCount.symm.trans (hu.portCount.trans hfs.portCount)
      have hstart := h.portCount
      omega
    exact .inr ⟨_, _, es, fs, _, _, rfl, rfl, hu.respond st a b, hes.portTrace, hfs.portTrace, hcount,
      hes.responses, hfs.responses, rfl, hl⟩

end Sys2Proof.Machine
